-- ==== Sys2Proof/Word.lean ====
section
/-! DEFINITION. The words of the machine: bytes, sequencer addresses, instruction words, access keys. -/

namespace Sys2Proof

/-- A register byte (00_scope.md R8: `REG_WIDTH` = `ACC_WIDTH` = `SCBPTR_WIDTH` = 8). -/
abbrev Byte := BitVec 8

/-- A word address of the sequencer RAM (00_scope.md R9: `PC_WIDTH` = 9). Its addition wraps
modulo 512, as 40_sequencer.md R177 requires of `pc + 1` and `load_addr + 1`. -/
abbrev SeqAddr := BitVec 9

/-- A sequencer instruction word (00_scope.md R9: `INSN_BITS` = 32). -/
abbrev SeqWord := BitVec 32

/-- The access key `{dir, offset[7:0]}` of an accepted host access (30_encoding.md R148). -/
abbrev Key := BitVec 9

end Sys2Proof
end

