-- ==== Sys2Proof/Config.lean ====
section
/-! DEFINITION. The implementation parameters (00_scope.md R8, R9): the fixed ones as constants, the
one open one (`QDEPTH`) as a structure that State carries. -/

namespace Sys2Proof

/-- `SEQ_WORDS`: words of the sequencer RAM (R8). -/
abbrev seqWords : Nat := 512

/-- `STACK_DEPTH`: return addresses the call stack holds (R8). -/
abbrev stackDepth : Nat := 4

/-- `NSCB`: SCB slots (R9, D37). -/
abbrev scbSlots : Nat := 256

/-- `SCB_SIZE`: bytes of one SCB slot (R9, D36). -/
abbrev scbSize : Nat := 32

/-- `REGION_SIZE`: bytes of the register region (R9, D1). -/
abbrev regionSize : Nat := 0x0C0

/-- `UNKNOWN_READ`: what each byte of an unknown or absorbed read returns (R8). -/
abbrev unknownRead : Byte := 0xFF#8

/-- `WO_READ`: what a read of a write-only register returns (R9, D4). -/
abbrev woRead : Byte := 0x00#8

/-- `GOOD_STATUS`: the completion status the engine writes (R9, D19). -/
abbrev goodStatus : Byte := 0x00#8

/-- The open parameter of the block (R9, D22): `qdepth` is `QDEPTH`, the capacity of each FIFO.
No step changes it; a statement about every state holds for every value of it (log 3). -/
structure Config where
  qdepth : Nat
deriving DecidableEq, Repr

/-- `1 ≤ QDEPTH ≤ 255` (R9). -/
def Config.wf (c : Config) : Bool := decide (1 ≤ c.qdepth) && decide (c.qdepth ≤ 255)

/-- The spec's default, `QDEPTH` = 255 (R9, D22). -/
def Config.standard : Config := { qdepth := 255 }

end Sys2Proof
end

