-- ==== Sys2Proof/Syntax.lean ====
section
/-! DEFINITION. The syntax: one constructor of `Instr` per row of spec/opcode_table.json (the nine
sequencer instructions and the 78 host register operations), and the two forms in which an
instruction reaches the block: a sequencer word, or a host access. -/

namespace Sys2Proof

/-- The nine sequencer instructions (40_sequencer.md R180 to R188) and the 78 host register operations
(41_register_ops.md, 42_queue_ops.md, 43_phase_ops.md R294), one constructor per row of the opcode
table, in its order. A write carries `v`, the byte written, even where the register ignores it;
the SCB window carries `k`, the byte of the slot (`offset - 0x0A0`). -/
inductive Instr where
  /-- OPAQUE (40_sequencer.md R180). -/
  | opaqueWord (w : SeqWord)
  /-- JMP (40_sequencer.md R181). -/
  | jmp (addr : SeqAddr)
  /-- JZ (40_sequencer.md R182). -/
  | jz (imm : Byte) (addr : SeqAddr)
  /-- JNZ (40_sequencer.md R183). -/
  | jnz (imm : Byte) (addr : SeqAddr)
  /-- CALL (40_sequencer.md R184). -/
  | call (addr : SeqAddr)
  /-- JE (40_sequencer.md R185). -/
  | je (imm : Byte) (addr : SeqAddr)
  /-- JNE (40_sequencer.md R186). -/
  | jne (imm : Byte) (addr : SeqAddr)
  /-- RET (40_sequencer.md R187). -/
  | ret
  /-- HALT (40_sequencer.md R188). -/
  | halt
  /-- SCSISEQ.R (41_register_ops.md R211). -/
  | scsiseqR
  /-- SCSISEQ.W (41_register_ops.md R211). -/
  | scsiseqW (v : Byte)
  /-- SXFRCTL0.R (41_register_ops.md R211). -/
  | sxfrctl0R
  /-- SXFRCTL0.W (41_register_ops.md R211). -/
  | sxfrctl0W (v : Byte)
  /-- SXFRCTL1.R (41_register_ops.md R211). -/
  | sxfrctl1R
  /-- SXFRCTL1.W (41_register_ops.md R211). -/
  | sxfrctl1W (v : Byte)
  /-- SCSISIGI.R (41_register_ops.md R214). -/
  | scsisigiR
  /-- SCSISIGO.W (41_register_ops.md R215). -/
  | scsisigoW (v : Byte)
  /-- SCSIRATE.R (41_register_ops.md R211). -/
  | scsirateR
  /-- SCSIRATE.W (41_register_ops.md R211). -/
  | scsirateW (v : Byte)
  /-- SCSIID.R (41_register_ops.md R211). -/
  | scsiidR
  /-- SCSIID.W (41_register_ops.md R211). -/
  | scsiidW (v : Byte)
  /-- SCSIDATL.R (41_register_ops.md R211). -/
  | scsidatlR
  /-- SCSIDATL.W (41_register_ops.md R211). -/
  | scsidatlW (v : Byte)
  /-- SCSIDATH.R (41_register_ops.md R211). -/
  | scsidathR
  /-- SCSIDATH.W (41_register_ops.md R211). -/
  | scsidathW (v : Byte)
  /-- STCNT0.R (41_register_ops.md R211). -/
  | stcnt0R
  /-- STCNT0.W (41_register_ops.md R211). -/
  | stcnt0W (v : Byte)
  /-- STCNT1.R (41_register_ops.md R211). -/
  | stcnt1R
  /-- STCNT1.W (41_register_ops.md R211). -/
  | stcnt1W (v : Byte)
  /-- STCNT2.R (41_register_ops.md R211). -/
  | stcnt2R
  /-- STCNT2.W (41_register_ops.md R211). -/
  | stcnt2W (v : Byte)
  /-- SSTAT0.R (41_register_ops.md R216). -/
  | sstat0R
  /-- SSTAT0.W (41_register_ops.md R213). -/
  | sstat0W (v : Byte)
  /-- SSTAT1.R (41_register_ops.md R217). -/
  | sstat1R
  /-- SSTAT1.W (41_register_ops.md R213). -/
  | sstat1W (v : Byte)
  /-- SIMODE0.R (41_register_ops.md R218). -/
  | simode0R
  /-- SIMODE0.W (41_register_ops.md R218). -/
  | simode0W (v : Byte)
  /-- SIMODE1.R (41_register_ops.md R211). -/
  | simode1R
  /-- SIMODE1.W (41_register_ops.md R211). -/
  | simode1W (v : Byte)
  /-- SELTIMER.R (41_register_ops.md R211). -/
  | seltimerR
  /-- SELTIMER.W (41_register_ops.md R211). -/
  | seltimerW (v : Byte)
  /-- SCAMCTL.R (41_register_ops.md R211). -/
  | scamctlR
  /-- SCAMCTL.W (41_register_ops.md R211). -/
  | scamctlW (v : Byte)
  /-- SPIOCAP.R (41_register_ops.md R211). -/
  | spiocapR
  /-- SPIOCAP.W (41_register_ops.md R211). -/
  | spiocapW (v : Byte)
  /-- BEDCTL.R (41_register_ops.md R211). -/
  | bedctlR
  /-- BEDCTL.W (41_register_ops.md R211). -/
  | bedctlW (v : Byte)
  /-- SEQCTL.R (41_register_ops.md R223). -/
  | seqctlR
  /-- SEQCTL.W (41_register_ops.md R224). -/
  | seqctlW (v : Byte)
  /-- SEQRAM.R (41_register_ops.md R227). -/
  | seqramR
  /-- SEQRAM.W (41_register_ops.md R226). -/
  | seqramW (v : Byte)
  /-- SEQADDR0.R (41_register_ops.md R228). -/
  | seqaddr0R
  /-- SEQADDR0.W (41_register_ops.md R229). -/
  | seqaddr0W (v : Byte)
  /-- SEQADDR1.R (41_register_ops.md R228). -/
  | seqaddr1R
  /-- SEQADDR1.W (41_register_ops.md R229). -/
  | seqaddr1W (v : Byte)
  /-- ACCUM.R (41_register_ops.md R230). -/
  | accumR
  /-- ACCUM.W (41_register_ops.md R230). -/
  | accumW (v : Byte)
  /-- SINDEX.R (41_register_ops.md R230). -/
  | sindexR
  /-- SINDEX.W (41_register_ops.md R230). -/
  | sindexW (v : Byte)
  /-- DINDEX.R (41_register_ops.md R230). -/
  | dindexR
  /-- DINDEX.W (41_register_ops.md R230). -/
  | dindexW (v : Byte)
  /-- BRKADDR0.R (41_register_ops.md R211). -/
  | brkaddr0R
  /-- BRKADDR0.W (41_register_ops.md R211). -/
  | brkaddr0W (v : Byte)
  /-- BRKADDR1.R (41_register_ops.md R231). -/
  | brkaddr1R
  /-- BRKADDR1.W (41_register_ops.md R231). -/
  | brkaddr1W (v : Byte)
  /-- STACK.R (41_register_ops.md R232). -/
  | stackR
  /-- STACK.W (41_register_ops.md R213). -/
  | stackW (v : Byte)
  /-- DSPCISTATUS.R (41_register_ops.md R211). -/
  | dspcistatusR
  /-- DSPCISTATUS.W (41_register_ops.md R211). -/
  | dspcistatusW (v : Byte)
  /-- HCNTRL.R (41_register_ops.md R233). -/
  | hcntrlR
  /-- HCNTRL.W (41_register_ops.md R235). -/
  | hcntrlW (v : Byte)
  /-- SCBPTR.R (41_register_ops.md R211). -/
  | scbptrR
  /-- SCBPTR.W (41_register_ops.md R211). -/
  | scbptrW (v : Byte)
  /-- INTSTAT.R (41_register_ops.md R238). -/
  | intstatR
  /-- INTSTAT.W (41_register_ops.md R213). -/
  | intstatW (v : Byte)
  /-- ERROR.R (41_register_ops.md R239). -/
  | errorR
  /-- CLRINT.W (41_register_ops.md R240). -/
  | clrintW (v : Byte)
  /-- QINFIFO.R (42_queue_ops.md R262). -/
  | qinfifoR
  /-- QINFIFO.W (42_queue_ops.md R261). -/
  | qinfifoW (v : Byte)
  /-- QINCNT.R (42_queue_ops.md R263). -/
  | qincntR
  /-- QINCNT.W (42_queue_ops.md R266). -/
  | qincntW (v : Byte)
  /-- QOUTFIFO.R (42_queue_ops.md R264). -/
  | qoutfifoR
  /-- QOUTFIFO.W (42_queue_ops.md R266). -/
  | qoutfifoW (v : Byte)
  /-- QOUTCNT.R (42_queue_ops.md R265). -/
  | qoutcntR
  /-- QOUTCNT.W (42_queue_ops.md R266). -/
  | qoutcntW (v : Byte)
  /-- SCBWIN.R (42_queue_ops.md R270). -/
  | scbwinR (k : BitVec 5)
  /-- SCBWIN.W (42_queue_ops.md R270). -/
  | scbwinW (k : BitVec 5) (v : Byte)
deriving DecidableEq, Repr

/-- Direction of a host access (00_scope.md R6: `acc_dir`). -/
inductive Dir where
  | read
  | write
deriving DecidableEq, Repr

/-- One host access as the port carries it (00_scope.md R6): direction, base-relative byte offset, size
in bytes, write data. Offsets beyond the region and sizes the port does not define are values too:
they are absorbed (20_memory.md R102, R105; log 10). -/
structure Access where
  dir : Dir
  offset : Nat
  size : Nat
  wdata : BitVec 32
deriving DecidableEq, Repr

/-- The two kinds of code of the block: a 32-bit sequencer word (30_encoding.md R140) and a host access
(30_encoding.md R148). -/
inductive Code where
  | word (w : SeqWord)
  | access (a : Access)
deriving DecidableEq, Repr

/-- What the outside can do to the block between two accesses (00_scope.md R6, 20_memory.md R114). -/
inductive Input where
  /-- a host access -/
  | access (a : Access)
  /-- a pulse of the `reset` input -/
  | reset
  /-- the event input `ext_scsi_int` -/
  | extScsiInt
  /-- the event input `ext_parity_err` -/
  | extParityErr
deriving DecidableEq, Repr

end Sys2Proof
end

