-- ==== Sys2Proof/WellFormed.lean ====
section
/-! DEFINITION. Well-formedness: which terms of `Instr`, `Access` and `Code` stand for something the
encodings of 30_encoding.md admit. -/

namespace Sys2Proof

/-- Whether an instruction has an encoding. Operand fields have exactly the width of their encoding
field (30_encoding.md R141, R142, R148), so the one check left is that of the opaque class: a word
is OPAQUE iff its bit 31 is 0 (R143). -/
def Instr.wf : Instr → Bool
  | .opaqueWord w => !w[31]
  | .jmp _ => true
  | .jz _ _ => true
  | .jnz _ _ => true
  | .call _ => true
  | .je _ _ => true
  | .jne _ _ => true
  | .ret => true
  | .halt => true
  | .scsiseqR => true
  | .scsiseqW _ => true
  | .sxfrctl0R => true
  | .sxfrctl0W _ => true
  | .sxfrctl1R => true
  | .sxfrctl1W _ => true
  | .scsisigiR => true
  | .scsisigoW _ => true
  | .scsirateR => true
  | .scsirateW _ => true
  | .scsiidR => true
  | .scsiidW _ => true
  | .scsidatlR => true
  | .scsidatlW _ => true
  | .scsidathR => true
  | .scsidathW _ => true
  | .stcnt0R => true
  | .stcnt0W _ => true
  | .stcnt1R => true
  | .stcnt1W _ => true
  | .stcnt2R => true
  | .stcnt2W _ => true
  | .sstat0R => true
  | .sstat0W _ => true
  | .sstat1R => true
  | .sstat1W _ => true
  | .simode0R => true
  | .simode0W _ => true
  | .simode1R => true
  | .simode1W _ => true
  | .seltimerR => true
  | .seltimerW _ => true
  | .scamctlR => true
  | .scamctlW _ => true
  | .spiocapR => true
  | .spiocapW _ => true
  | .bedctlR => true
  | .bedctlW _ => true
  | .seqctlR => true
  | .seqctlW _ => true
  | .seqramR => true
  | .seqramW _ => true
  | .seqaddr0R => true
  | .seqaddr0W _ => true
  | .seqaddr1R => true
  | .seqaddr1W _ => true
  | .accumR => true
  | .accumW _ => true
  | .sindexR => true
  | .sindexW _ => true
  | .dindexR => true
  | .dindexW _ => true
  | .brkaddr0R => true
  | .brkaddr0W _ => true
  | .brkaddr1R => true
  | .brkaddr1W _ => true
  | .stackR => true
  | .stackW _ => true
  | .dspcistatusR => true
  | .dspcistatusW _ => true
  | .hcntrlR => true
  | .hcntrlW _ => true
  | .scbptrR => true
  | .scbptrW _ => true
  | .intstatR => true
  | .intstatW _ => true
  | .errorR => true
  | .clrintW _ => true
  | .qinfifoR => true
  | .qinfifoW _ => true
  | .qincntR => true
  | .qincntW _ => true
  | .qoutfifoR => true
  | .qoutfifoW _ => true
  | .qoutcntR => true
  | .qoutcntW _ => true
  | .scbwinR _ => true
  | .scbwinW _ _ => true

/-- Whether the block accepts a host access (20_memory.md R102): size 1, offset inside the region. -/
def Access.accepted (a : Access) : Bool := a.size == 1 && decide (a.offset < regionSize)

end Sys2Proof
end

