-- ==== Sys2Proof/Decode.lean ====
section
/-! DEFINITION. The decoder, total on every 32-bit word and every host access, rejecting by name
(30_encoding.md R141 to R148, 20_memory.md R102, 41_register_ops.md R212), and after it the encoder. -/

namespace Sys2Proof

/-- Why a code is no instruction of the opcode table. -/
inductive Reject where
  /-- a control-flow word with a non-zero must-be-zero field (30_encoding.md R145) -/
  | malformed
  /-- a read of an unknown offset: UNKNOWN.R (41_register_ops.md R212) -/
  | unknownRead
  /-- a write to an unknown offset: UNKNOWN.W (41_register_ops.md R212) -/
  | unknownWrite
  /-- a read the block does not accept (20_memory.md R105) -/
  | absorbedRead
  /-- a write the block does not accept (20_memory.md R105) -/
  | absorbedWrite
deriving DecidableEq, Repr

/-- What the decoder answers. -/
inductive Decoded where
  | instr (i : Instr)
  | reject (r : Reject)
deriving DecidableEq, Repr

/-! ### Sequencer words: format SEQ32 (30_encoding.md R141) -/

/-- `op` = `w[31:28]`. -/
def opField (w : SeqWord) : BitVec 4 := w.extractLsb' 28 4

/-- `rsv` = `w[27:17]`. -/
def rsvField (w : SeqWord) : BitVec 11 := w.extractLsb' 17 11

/-- `addr` = `w[16:8]`. -/
def addrField (w : SeqWord) : SeqAddr := w.extractLsb' 8 9

/-- `imm` = `w[7:0]`. -/
def immField (w : SeqWord) : Byte := w.extractLsb' 0 8

/-- The instruction `i` if its must-be-zero fields are zero, MALFORMED otherwise (R145). -/
def ifZero (mbz : Bool) (i : Instr) : Decoded := if mbz then .instr i else .reject .malformed

/-- `Decode(w)` of 30_encoding.md R146. The last arm is never reached: `w[31]` is 1 there. -/
def decodeWord (w : SeqWord) : Decoded :=
  if w[31] = false then .instr (.opaqueWord w)
  else if rsvField w ≠ 0 then .reject .malformed
  else match opField w with
    | 0x8#4 => ifZero (immField w == 0) (.jmp (addrField w))
    | 0x9#4 => .instr (.jz (immField w) (addrField w))
    | 0xA#4 => .instr (.jnz (immField w) (addrField w))
    | 0xB#4 => ifZero (immField w == 0) (.call (addrField w))
    | 0xC#4 => .instr (.je (immField w) (addrField w))
    | 0xD#4 => .instr (.jne (immField w) (addrField w))
    | 0xE#4 => ifZero (addrField w == 0 && immField w == 0) .ret
    | 0xF#4 => ifZero (addrField w == 0 && immField w == 0) .halt
    | _ => .reject .malformed

/-! ### Host accesses: the access key (30_encoding.md R148) -/

/-- One HOSTKEY row of the opcode table: a key is of the row iff `key and mask = pattern`; `build` makes
the operation from the key and the byte written. -/
structure KeyRow where
  pattern : Key
  mask : Key
  build : Key → Byte → Instr

/-- `key` is of the row (30_encoding.md R148). -/
def KeyRow.hit (r : KeyRow) (key : Key) : Bool := key &&& r.mask == r.pattern

/-- A row of a read at one offset. -/
def readRow (offset : Byte) (i : Instr) : KeyRow :=
  { pattern := 0#1 ++ offset, mask := 0x1FF#9, build := fun _ _ => i }

/-- A row of a write at one offset. -/
def writeRow (offset : Byte) (f : Byte → Instr) : KeyRow :=
  { pattern := 1#1 ++ offset, mask := 0x1FF#9, build := fun _ v => f v }

/-- The byte of the SCB window a key addresses: `offset - 0x0A0`, its low five bits (10_state.md R50). -/
def windowByte (key : Key) : BitVec 5 := key.extractLsb' 0 5


/-- The map of 10_state.md R34 by direction: SCSI, status and mode registers, 0x000 to 0x011. -/
def statusRows : List KeyRow := [
  readRow 0x00#8 .scsiseqR,
  writeRow 0x00#8 .scsiseqW,
  readRow 0x01#8 .sxfrctl0R,
  writeRow 0x01#8 .sxfrctl0W,
  readRow 0x02#8 .sxfrctl1R,
  writeRow 0x02#8 .sxfrctl1W,
  readRow 0x03#8 .scsisigiR,
  writeRow 0x03#8 .scsisigoW,
  readRow 0x04#8 .scsirateR,
  writeRow 0x04#8 .scsirateW,
  readRow 0x05#8 .scsiidR,
  writeRow 0x05#8 .scsiidW,
  readRow 0x06#8 .scsidatlR,
  writeRow 0x06#8 .scsidatlW,
  readRow 0x07#8 .scsidathR,
  writeRow 0x07#8 .scsidathW,
  readRow 0x08#8 .stcnt0R,
  writeRow 0x08#8 .stcnt0W,
  readRow 0x09#8 .stcnt1R,
  writeRow 0x09#8 .stcnt1W,
  readRow 0x0A#8 .stcnt2R,
  writeRow 0x0A#8 .stcnt2W,
  readRow 0x0B#8 .sstat0R,
  writeRow 0x0B#8 .sstat0W,
  readRow 0x0C#8 .sstat1R,
  writeRow 0x0C#8 .sstat1W,
  readRow 0x10#8 .simode0R,
  writeRow 0x10#8 .simode0W,
  readRow 0x11#8 .simode1R,
  writeRow 0x11#8 .simode1W ]

/-- The map of 10_state.md R34 by direction: registers 0x018 to 0x01D and 0x086. -/
def inertRows : List KeyRow := [
  readRow 0x18#8 .seltimerR,
  writeRow 0x18#8 .seltimerW,
  readRow 0x1A#8 .scamctlR,
  writeRow 0x1A#8 .scamctlW,
  readRow 0x1B#8 .spiocapR,
  writeRow 0x1B#8 .spiocapW,
  readRow 0x1D#8 .bedctlR,
  writeRow 0x1D#8 .bedctlW,
  readRow 0x86#8 .dspcistatusR,
  writeRow 0x86#8 .dspcistatusW ]

/-- The map of 10_state.md R34 by direction: sequencer registers, 0x060 to 0x06F. -/
def sequencerRows : List KeyRow := [
  readRow 0x60#8 .seqctlR,
  writeRow 0x60#8 .seqctlW,
  readRow 0x61#8 .seqramR,
  writeRow 0x61#8 .seqramW,
  readRow 0x62#8 .seqaddr0R,
  writeRow 0x62#8 .seqaddr0W,
  readRow 0x63#8 .seqaddr1R,
  writeRow 0x63#8 .seqaddr1W,
  readRow 0x64#8 .accumR,
  writeRow 0x64#8 .accumW,
  readRow 0x65#8 .sindexR,
  writeRow 0x65#8 .sindexW,
  readRow 0x66#8 .dindexR,
  writeRow 0x66#8 .dindexW,
  readRow 0x67#8 .brkaddr0R,
  writeRow 0x67#8 .brkaddr0W,
  readRow 0x68#8 .brkaddr1R,
  writeRow 0x68#8 .brkaddr1W,
  readRow 0x6F#8 .stackR,
  writeRow 0x6F#8 .stackW ]

/-- The map of 10_state.md R34 by direction: host control, interrupt and queue registers, 0x087 to 0x09E. -/
def controlRows : List KeyRow := [
  readRow 0x87#8 .hcntrlR,
  writeRow 0x87#8 .hcntrlW,
  readRow 0x90#8 .scbptrR,
  writeRow 0x90#8 .scbptrW,
  readRow 0x91#8 .intstatR,
  writeRow 0x91#8 .intstatW,
  readRow 0x92#8 .errorR,
  writeRow 0x92#8 .clrintW,
  readRow 0x9B#8 .qinfifoR,
  writeRow 0x9B#8 .qinfifoW,
  readRow 0x9C#8 .qincntR,
  writeRow 0x9C#8 .qincntW,
  readRow 0x9D#8 .qoutfifoR,
  writeRow 0x9D#8 .qoutfifoW,
  readRow 0x9E#8 .qoutcntR,
  writeRow 0x9E#8 .qoutcntW ]

/-- The SCB window, 0x0A0 to 0x0BF (10_state.md R50). The read row has mask 0x1E0, as spec/opcode_table.json has it:
30_encoding.md R148 writes 0x0E0, under which that row would take the keys of the writes too. DEDUCED (log 19). -/
def windowRows : List KeyRow := [
  { pattern := 0x0A0#9, mask := 0x1E0#9, build := fun key _ => .scbwinR (windowByte key) },
  { pattern := 0x1A0#9, mask := 0x1E0#9, build := fun key v => .scbwinW (windowByte key) v } ]

/-- The 78 HOSTKEY rows. -/
def keyRows : List KeyRow :=
  statusRows ++ inertRows ++ sequencerRows ++ controlRows ++ windowRows

/-- The operation of the row of `key`; the UNKNOWN operations for a key of no row
(30_encoding.md R148, 41_register_ops.md R210, R212). -/
def decodeKey (key : Key) (v : Byte) : Decoded :=
  match keyRows.find? (fun r => r.hit key) with
  | some r => .instr (r.build key v)
  | none => .reject (if key[8] then .unknownWrite else .unknownRead)

/-- The direction bit of the access key (30_encoding.md R148). -/
def Dir.bit : Dir → BitVec 1
  | .read => 0#1
  | .write => 1#1

/-- The access key of an access (30_encoding.md R148). -/
def Access.key (a : Access) : Key := a.dir.bit ++ BitVec.ofNat 8 a.offset

/-- The one byte an accepted write writes: `wdata[7:0]` (20_memory.md R104). -/
def Access.byte (a : Access) : Byte := a.wdata.setWidth 8

/-- The operation of a host access: ABSORBED unless accepted (20_memory.md R102, R104 step 1), else the
operation of its key. -/
def decodeAccess (a : Access) : Decoded :=
  if a.accepted then decodeKey a.key a.byte
  else match a.dir with
    | .read => .reject .absorbedRead
    | .write => .reject .absorbedWrite

/-- The decoder: total, rejecting by name. -/
def decode : Code → Decoded
  | .word w => decodeWord w
  | .access a => decodeAccess a

/-! ### The encoder -/

/-- A SEQ32 word from its fields, `rsv` = 0 (30_encoding.md R141, R144). -/
def seqWord (op : BitVec 4) (addr : SeqAddr) (imm : Byte) : SeqWord := op ++ 0#11 ++ addr ++ imm

/-- The access that reads one offset. -/
def readAccess (offset : Nat) : Access := { dir := .read, offset := offset, size := 1, wdata := 0 }

/-- The access that writes one byte at one offset. -/
def writeAccess (offset : Nat) (v : Byte) : Access :=
  { dir := .write, offset := offset, size := 1, wdata := v.setWidth 32 }

/-- The code of an instruction: `Encode` of 30_encoding.md R146 for the sequencer's, the access of
30_encoding.md R148 and 10_state.md R34 for the host's. -/
def encode : Instr → Code
  | .opaqueWord w => .word w
  | .jmp addr => .word (seqWord 0x8 addr 0)
  | .jz imm addr => .word (seqWord 0x9 addr imm)
  | .jnz imm addr => .word (seqWord 0xA addr imm)
  | .call addr => .word (seqWord 0xB addr 0)
  | .je imm addr => .word (seqWord 0xC addr imm)
  | .jne imm addr => .word (seqWord 0xD addr imm)
  | .ret => .word (seqWord 0xE 0 0)
  | .halt => .word (seqWord 0xF 0 0)
  | .scsiseqR => .access (readAccess 0x000)
  | .scsiseqW v => .access (writeAccess 0x000 v)
  | .sxfrctl0R => .access (readAccess 0x001)
  | .sxfrctl0W v => .access (writeAccess 0x001 v)
  | .sxfrctl1R => .access (readAccess 0x002)
  | .sxfrctl1W v => .access (writeAccess 0x002 v)
  | .scsisigiR => .access (readAccess 0x003)
  | .scsisigoW v => .access (writeAccess 0x003 v)
  | .scsirateR => .access (readAccess 0x004)
  | .scsirateW v => .access (writeAccess 0x004 v)
  | .scsiidR => .access (readAccess 0x005)
  | .scsiidW v => .access (writeAccess 0x005 v)
  | .scsidatlR => .access (readAccess 0x006)
  | .scsidatlW v => .access (writeAccess 0x006 v)
  | .scsidathR => .access (readAccess 0x007)
  | .scsidathW v => .access (writeAccess 0x007 v)
  | .stcnt0R => .access (readAccess 0x008)
  | .stcnt0W v => .access (writeAccess 0x008 v)
  | .stcnt1R => .access (readAccess 0x009)
  | .stcnt1W v => .access (writeAccess 0x009 v)
  | .stcnt2R => .access (readAccess 0x00A)
  | .stcnt2W v => .access (writeAccess 0x00A v)
  | .sstat0R => .access (readAccess 0x00B)
  | .sstat0W v => .access (writeAccess 0x00B v)
  | .sstat1R => .access (readAccess 0x00C)
  | .sstat1W v => .access (writeAccess 0x00C v)
  | .simode0R => .access (readAccess 0x010)
  | .simode0W v => .access (writeAccess 0x010 v)
  | .simode1R => .access (readAccess 0x011)
  | .simode1W v => .access (writeAccess 0x011 v)
  | .seltimerR => .access (readAccess 0x018)
  | .seltimerW v => .access (writeAccess 0x018 v)
  | .scamctlR => .access (readAccess 0x01A)
  | .scamctlW v => .access (writeAccess 0x01A v)
  | .spiocapR => .access (readAccess 0x01B)
  | .spiocapW v => .access (writeAccess 0x01B v)
  | .bedctlR => .access (readAccess 0x01D)
  | .bedctlW v => .access (writeAccess 0x01D v)
  | .seqctlR => .access (readAccess 0x060)
  | .seqctlW v => .access (writeAccess 0x060 v)
  | .seqramR => .access (readAccess 0x061)
  | .seqramW v => .access (writeAccess 0x061 v)
  | .seqaddr0R => .access (readAccess 0x062)
  | .seqaddr0W v => .access (writeAccess 0x062 v)
  | .seqaddr1R => .access (readAccess 0x063)
  | .seqaddr1W v => .access (writeAccess 0x063 v)
  | .accumR => .access (readAccess 0x064)
  | .accumW v => .access (writeAccess 0x064 v)
  | .sindexR => .access (readAccess 0x065)
  | .sindexW v => .access (writeAccess 0x065 v)
  | .dindexR => .access (readAccess 0x066)
  | .dindexW v => .access (writeAccess 0x066 v)
  | .brkaddr0R => .access (readAccess 0x067)
  | .brkaddr0W v => .access (writeAccess 0x067 v)
  | .brkaddr1R => .access (readAccess 0x068)
  | .brkaddr1W v => .access (writeAccess 0x068 v)
  | .stackR => .access (readAccess 0x06F)
  | .stackW v => .access (writeAccess 0x06F v)
  | .dspcistatusR => .access (readAccess 0x086)
  | .dspcistatusW v => .access (writeAccess 0x086 v)
  | .hcntrlR => .access (readAccess 0x087)
  | .hcntrlW v => .access (writeAccess 0x087 v)
  | .scbptrR => .access (readAccess 0x090)
  | .scbptrW v => .access (writeAccess 0x090 v)
  | .intstatR => .access (readAccess 0x091)
  | .intstatW v => .access (writeAccess 0x091 v)
  | .errorR => .access (readAccess 0x092)
  | .clrintW v => .access (writeAccess 0x092 v)
  | .qinfifoR => .access (readAccess 0x09B)
  | .qinfifoW v => .access (writeAccess 0x09B v)
  | .qincntR => .access (readAccess 0x09C)
  | .qincntW v => .access (writeAccess 0x09C v)
  | .qoutfifoR => .access (readAccess 0x09D)
  | .qoutfifoW v => .access (writeAccess 0x09D v)
  | .qoutcntR => .access (readAccess 0x09E)
  | .qoutcntW v => .access (writeAccess 0x09E v)
  | .scbwinR k => .access (readAccess (0x0A0 + k.toNat))
  | .scbwinW k v => .access (writeAccess (0x0A0 + k.toNat) v)

/-! ### The opcode table's numbering -/

/-- A 32-bit word from its four bytes, least significant first (20_memory.md R106 a). -/
def wordOfBytes (b0 b1 b2 b3 : Byte) : SeqWord := b3 ++ b2 ++ b1 ++ b0

/-- Byte `n` of a number, byte 0 the least significant. -/
def byteOf (w n : Nat) : Byte := BitVec.ofNat 8 (w >>> (8 * n))

/-- The code whose bits are `w` in the opcode table's numbering. A SEQ32 row has 32 bits: its four bytes
in storage order. A HOSTKEY row has nine bits (two bytes): bits 8:0 are the access key; the padding
bits 15:9 are no part of it; the write data follows from bit 16 on (log 11). -/
def tableCode (nbits w : Nat) : Code :=
  if nbits ≤ 16 then
    .access { dir := if w.testBit 8 then .write else .read, offset := (byteOf w 0).toNat, size := 1,
              wdata := BitVec.ofNat 32 (w >>> 16) }
  else .word (wordOfBytes (byteOf w 0) (byteOf w 1) (byteOf w 2) (byteOf w 3))

/-- The instruction the decoder reads from an instruction whose bits are `w` in the opcode table's
numbering; none where it rejects. -/
def decodeTableWord (nbits w : Nat) : Option Instr :=
  match decode (tableCode nbits w) with
  | .instr i => some i
  | .reject _ => none

end Sys2Proof
end

