-- ==== Sys2Proof/Machine/State.lean ====
section
/-! DEFINITION. The state of the block as plain data: every element of 10_state.md R20, and four fields of
the model's own (the configuration, the inputs still to come, the two outputs). -/

namespace Sys2Proof.Machine

/-- The nine SCSI bus phases (10_state.md R30). -/
inductive Phase where
  | busFree
  | arbitration
  | selection
  | msgOut
  | msgIn
  | command
  | dataIn
  | dataOut
  | status
deriving DecidableEq, Repr

/-- The four interrupt causes (10_state.md R31). -/
inductive Cause where
  /-- CMDCMPLT: command-complete -/
  | cmdcmplt
  /-- SCSIINT: SCSI bus interrupt -/
  | scsiint
  /-- BRKADRINT: sequencer halted, sequencer error -/
  | brkadrint
  /-- PARERRINT: parity error -/
  | parerrint
deriving DecidableEq, Repr

/-- The four sequencer faults (60_exceptions.md R311). They are changes of state (the engine enters
Halted), not outcomes that stop the model. -/
inductive SeqError where
  /-- an illegal phase transition was requested -/
  | illphase
  /-- call-stack overflow -/
  | stkovf
  /-- malformed sequencer opcode -/
  | illopcode
  /-- return on an empty call stack -/
  | stkunf
deriving DecidableEq, Repr

/-- `error`: the sticky fault record, one bit per fault (10_state.md R24, R48). -/
structure ErrorRecord where
  illphase : Bool
  stkovf : Bool
  illopcode : Bool
  stkunf : Bool
deriving DecidableEq, Repr

/-- `pending[c]` for the four causes (10_state.md R31). -/
structure PendingCauses where
  cmdcmplt : Bool
  scsiint : Bool
  brkadrint : Bool
  parerrint : Bool
deriving DecidableEq, Repr

/-- `sstat0`: the five transient event bits (10_state.md R37). -/
structure TransientBits where
  phasechg : Bool
  busfree : Bool
  phasemis : Bool
  qinrej : Bool
  qoutunf : Bool
deriving DecidableEq, Repr

/-- `reg[NAME]` for every stored register byte (10_state.md R20, R34). -/
structure StoredRegs where
  scsiseq : Byte
  sxfrctl0 : Byte
  sxfrctl1 : Byte
  scsirate : Byte
  scsiid : Byte
  scsidatl : Byte
  scsidath : Byte
  stcnt0 : Byte
  stcnt1 : Byte
  stcnt2 : Byte
  simode0 : Byte
  simode1 : Byte
  seltimer : Byte
  scamctl : Byte
  spiocap : Byte
  bedctl : Byte
  seqctl : Byte
  brkaddr0 : Byte
  brkaddr1 : Byte
  dspcistatus : Byte
  hcntrl : Byte
  scbptr : Byte
deriving DecidableEq, Repr

/-- A byte-addressed store: the listed (address, byte) cells; an unlisted address reads 0x00, the reset
contents of both stores (10_state.md R25, R27; log 7). -/
abbrev Memory := List Host.Cell

/-- The state of the block. The first group of fields is 10_state.md R20, element by element; the last four
fields are the model's own. -/
structure State where
  /-- the accumulator (R21) -/
  accum : Byte
  /-- the source index register (R21) -/
  sindex : Byte
  /-- the destination index register (R21) -/
  dindex : Byte
  /-- the program counter (R22) -/
  pc : SeqAddr
  /-- the four entries of the call stack (R23) -/
  stack : Vector SeqAddr 4
  /-- the number of valid stack entries, 0 to 4 (R23) -/
  sp : Fin 5
  /-- the Halted flag (R24) -/
  halted : Bool
  /-- the sticky fault record (R24) -/
  error : ErrorRecord
  /-- the sequencer RAM: lane `k` of word `a` is the byte at `4 * a + k` (R25; log 7) -/
  ram : Memory
  /-- the word address the next SEQRAM write goes to (R26) -/
  loadAddr : SeqAddr
  /-- the byte lane the next SEQRAM write fills (R26) -/
  loadLane : BitVec 2
  /-- the SCB slot array: byte `k` of slot `i` is the byte at `32 * i + k` (R27; log 7) -/
  scb : Memory
  /-- the SCB in flight, or none (R28) -/
  active : Option Byte
  /-- the input FIFO, oldest first (R29) -/
  qin : List Byte
  /-- the output FIFO, oldest first (R29) -/
  qout : List Byte
  /-- the bus phase (R30) -/
  phase : Phase
  /-- the pending causes (R31) -/
  pending : PendingCauses
  /-- the level driven on `irq` (R31) -/
  irqLine : Bool
  /-- the transient event bits (R37) -/
  sstat0 : TransientBits
  /-- the stored register bytes (R34) -/
  regs : StoredRegs
  /-- MODEL: the parameter `QDEPTH`, never changed (log 3) -/
  cfg : Config
  /-- MODEL: what the outside has issued and the block has not yet accepted, oldest first (log 2) -/
  inputs : List Input
  /-- MODEL: the output `acc_rdata`: the bytes the last host read returned (log 4) -/
  rdata : List Byte
  /-- MODEL: the output trace `irq_edge`, newest first (log 5) -/
  edges : List Bool
deriving DecidableEq, Repr

/-- Why a meaning stops the model. The spec gives the block no such stop (70_reset_and_hazards.md R373):
both constructors answer a call of `exec` outside the engine's precondition `CanStep`
(40_sequencer.md R173), which `step` never makes (log 8). -/
inductive Fault where
  /-- Raised by the progress action when it must take an SCB from an empty input FIFO: the precondition
  `len(qin) > 0` of `QinPop` (42_queue_ops.md R267) does not hold. Safe: `step` never answers it. -/
  | qinEmpty
  /-- Raised by the progress action when it must push to a full output FIFO: the precondition
  `len(qout) < QDEPTH` of `QoutPush` (42_queue_ops.md R268) does not hold. Safe: `step` never answers it. -/
  | qoutFull
deriving DecidableEq, Repr

/-- Why an instruction has no meaning in the model. -/
inductive Refusal where
  /-- Raised by an arm of `exec` whose instruction has no meaning yet; no arm is so. Safe. -/
  | notModelled (mnemonic : String)
deriving DecidableEq, Repr

/-- The state right after the reset operation (70_reset_and_hazards.md R350, 10_state.md R20): every element at the
value the spec states. The model's own fields: QDEPTH at the spec's default (log 3), no input, no
read data, no edge yet (logs 2, 4, 5). -/
def State.reset : State where
  accum := 0x00#8
  sindex := 0x00#8
  dindex := 0x00#8
  pc := 0x000#9
  stack := #v[0x000#9, 0x000#9, 0x000#9, 0x000#9]
  sp := 0
  halted := false
  error := { illphase := false, stkovf := false, illopcode := false, stkunf := false }
  ram := []
  loadAddr := 0x000#9
  loadLane := 0#2
  scb := []
  active := none
  qin := []
  qout := []
  phase := .busFree
  pending := { cmdcmplt := false, scsiint := false, brkadrint := false, parerrint := false }
  irqLine := false
  sstat0 := { phasechg := false, busfree := false, phasemis := false, qinrej := false, qoutunf := false }
  regs :=
    { scsiseq := 0x00#8, sxfrctl0 := 0x00#8, sxfrctl1 := 0x00#8, scsirate := 0x00#8, scsiid := 0x00#8,
      scsidatl := 0x00#8, scsidath := 0x00#8, stcnt0 := 0x00#8, stcnt1 := 0x00#8, stcnt2 := 0x00#8,
      simode0 := 0x00#8, simode1 := 0x00#8, seltimer := 0x00#8, scamctl := 0x00#8, spiocap := 0x00#8,
      bedctl := 0x00#8, seqctl := 0x00#8, brkaddr0 := 0x00#8, brkaddr1 := 0x80#8,
      dspcistatus := 0x00#8, hcntrl := 0x04#8, scbptr := 0x00#8 }
  cfg := Config.standard
  inputs := []
  rdata := []
  edges := []

end Sys2Proof.Machine
end

