-- ==== Sys2Proof/Machine/Operands.lean ====
section
/-! DEFINITION. Operands: how a byte, an address, a slot field or a register operand is read from and written
to the state's pieces: the byte stores, the split 9-bit addresses, the windows of the register file. -/

namespace Sys2Proof.Machine

/-! ### The byte stores (log 7) -/

/-- The byte at an address: 0x00 where nothing is listed. -/
def Memory.read : Memory → Nat → Byte
  | [], _ => 0x00#8
  | (b, w) :: m, a => if a = b then w else Memory.read m a

/-- The cells without those of one address. -/
def Memory.erase : Memory → Nat → Memory
  | [], _ => []
  | (b, w) :: m, a => if a = b then Memory.erase m a else (b, w) :: Memory.erase m a

/-- A cell put before the first cell of a higher address. -/
def Memory.insert : Memory → Nat → Byte → Memory
  | [], a, v => [(a, v)]
  | (b, w) :: m, a, v => if a < b then (a, v) :: (b, w) :: m else (b, w) :: Memory.insert m a v

/-- The store with `v` at address `a`; a zero byte is not listed, so equal stores are equal lists. -/
def Memory.write (m : Memory) (a : Nat) (v : Byte) : Memory :=
  if v = 0x00#8 then Memory.erase m a else Memory.insert (Memory.erase m a) a v

/-- Addresses strictly rising from at least `lo`, no zero byte listed. -/
def Memory.wfFrom (lo : Nat) : Memory → Bool
  | [] => true
  | (a, v) :: m => decide (lo ≤ a) && (v != 0x00#8) && Memory.wfFrom (a + 1) m

/-- The canonical form. -/
def Memory.wf (m : Memory) : Bool := Memory.wfFrom 0 m

/-- Every listed address is below `n`. -/
def Memory.below (n : Nat) (m : Memory) : Bool := m.all (fun c => decide (c.1 < n))

/-- The store's address of lane `lane` of RAM word `a` (20_memory.md R106 a). -/
def laneAddr (a : SeqAddr) (lane : BitVec 2) : Nat := 4 * a.toNat + lane.toNat

/-- Bytes of the sequencer RAM: 512 words of four lanes (10_state.md R25). -/
abbrev ramBytes : Nat := 4 * seqWords

/-- `ram[a]`: the word assembled from its four lanes, lane 0 in bits 7:0 (10_state.md R26, 20_memory.md R106 a). -/
def ramWord (m : Memory) (a : SeqAddr) : SeqWord :=
  wordOfBytes (Memory.read m (laneAddr a 0)) (Memory.read m (laneAddr a 1))
    (Memory.read m (laneAddr a 2)) (Memory.read m (laneAddr a 3))

/-- `ram[a][8·lane+7 : 8·lane] <- v` (41_register_ops.md R226). -/
def ramWriteLane (m : Memory) (a : SeqAddr) (lane : BitVec 2) (v : Byte) : Memory :=
  Memory.write m (laneAddr a lane) v

/-- The store's address of byte `k` of SCB slot `i`. -/
def scbAddr (i : Byte) (k : BitVec 5) : Nat := 32 * i.toNat + k.toNat

/-- Bytes of the SCB array: 256 slots of 32 bytes (10_state.md R27). -/
abbrev scbBytes : Nat := scbSlots * scbSize

/-- `scb[i][k]`. -/
def scbByte (m : Memory) (i : Byte) (k : BitVec 5) : Byte := Memory.read m (scbAddr i k)

/-! ### Fields of an SCB slot (10_state.md R27) -/

/-- `SCB_DATACNT(i)` = `{scb[i][11], scb[i][10], scb[i][9], scb[i][8]}` (43_phase_ops.md R295). -/
def scbDataCount (m : Memory) (i : Byte) : BitVec 32 :=
  wordOfBytes (scbByte m i 8) (scbByte m i 9) (scbByte m i 10) (scbByte m i 11)

/-- SCB_CONTROL.DIR, `scb[i][0][0]`: true is Data-In. -/
def scbDirIn (m : Memory) (i : Byte) : Bool := (scbByte m i 0)[0]

/-! ### Split 9-bit addresses (20_memory.md R106 b) -/

/-- A 9-bit address from its bit 8 and its low byte. -/
def joinAddr (hi : Bool) (lo : Byte) : SeqAddr := BitVec.ofBool hi ++ lo

/-- `a[7:0]`. -/
def addrLow (a : SeqAddr) : Byte := a.setWidth 8

/-- `zext_8(a[8])`. -/
def addrHigh (a : SeqAddr) : Byte := (BitVec.ofBool a[8]).setWidth 8

/-- `a[7:0] <- v`. -/
def setAddrLow (a : SeqAddr) (v : Byte) : SeqAddr := joinAddr a[8] v

/-- `a[8] <- v[0]`; bits 7:1 of `v` are ignored. -/
def setAddrHigh (a : SeqAddr) (v : Byte) : SeqAddr := joinAddr v[0] (addrLow a)

/-- A byte from its eight bits, bit 7 first. -/
def byteOfBits (b7 b6 b5 b4 b3 b2 b1 b0 : Bool) : Byte :=
  BitVec.ofBool b7 ++ BitVec.ofBool b6 ++ BitVec.ofBool b5 ++ BitVec.ofBool b4 ++
    BitVec.ofBool b3 ++ BitVec.ofBool b2 ++ BitVec.ofBool b1 ++ BitVec.ofBool b0

/-! ### Register bits -/

/-- `reg[SEQCTL].LOADRAM`, bit 0 (10_state.md R40). -/
def State.loadram (s : State) : Bool := s.regs.seqctl[0]

/-- `reg[SEQCTL].STEP`, bit 2 (10_state.md R40). -/
def State.stepBit (s : State) : Bool := s.regs.seqctl[2]

/-- `reg[HCNTRL].INTEN`, bit 1 (10_state.md R45). -/
def State.inten (s : State) : Bool := s.regs.hcntrl[1]

/-- `reg[HCNTRL].PAUSE`, bit 2 (10_state.md R45). -/
def State.pause (s : State) : Bool := s.regs.hcntrl[2]

/-- `reg[BRKADDR1].BRKDIS`, bit 7 (10_state.md R43). -/
def State.brkdis (s : State) : Bool := s.regs.brkaddr1[7]

/-- The breakpoint address `{reg[BRKADDR1][0], reg[BRKADDR0]}` (60_exceptions.md R314). -/
def State.brkAddr (s : State) : SeqAddr := joinAddr s.regs.brkaddr1[0] s.regs.brkaddr0

/-- The address behind SEQADDR0/1: `load_addr` while loading, `pc` otherwise (10_state.md R41). -/
def State.seqAddr (s : State) : SeqAddr := if s.loadram then s.loadAddr else s.pc

/-- `b(c)`: the bit position of a cause in INTSTAT, SIMODE0 and CLRINT (60_exceptions.md R320), as the bit of a byte. -/
def Cause.bitOf (c : Cause) (v : Byte) : Bool :=
  match c with
  | .cmdcmplt => v[1]
  | .scsiint => v[2]
  | .brkadrint => v[3]
  | .parerrint => v[4]

/-- `pending[c]`. -/
def PendingCauses.get (p : PendingCauses) : Cause → Bool
  | .cmdcmplt => p.cmdcmplt
  | .scsiint => p.scsiint
  | .brkadrint => p.brkadrint
  | .parerrint => p.parerrint

/-- `pending[c] <- b`. -/
def PendingCauses.set (p : PendingCauses) (c : Cause) (b : Bool) : PendingCauses :=
  match c with
  | .cmdcmplt => { p with cmdcmplt := b }
  | .scsiint => { p with scsiint := b }
  | .brkadrint => { p with brkadrint := b }
  | .parerrint => { p with parerrint := b }

/-- `error or bit(f)` (60_exceptions.md R312). -/
def ErrorRecord.mark (e : ErrorRecord) : SeqError → ErrorRecord
  | .illphase => { e with illphase := true }
  | .stkovf => { e with stkovf := true }
  | .illopcode => { e with illopcode := true }
  | .stkunf => { e with stkunf := true }

/-! ### The plain registers (41_register_ops.md R211) -/

/-- The registers of class RW that are storage alone: the sixteen inert ones (10_state.md R33), BRKADDR0 and
SCBPTR. -/
inductive PlainReg where
  | scsiseq
  | sxfrctl0
  | sxfrctl1
  | scsirate
  | scsiid
  | scsidatl
  | scsidath
  | stcnt0
  | stcnt1
  | stcnt2
  | simode1
  | seltimer
  | scamctl
  | spiocap
  | bedctl
  | dspcistatus
  | brkaddr0
  | scbptr
deriving DecidableEq, Repr

/-- `reg[NAME]` of a plain register. -/
def StoredRegs.get (g : StoredRegs) : PlainReg → Byte
  | .scsiseq => g.scsiseq
  | .sxfrctl0 => g.sxfrctl0
  | .sxfrctl1 => g.sxfrctl1
  | .scsirate => g.scsirate
  | .scsiid => g.scsiid
  | .scsidatl => g.scsidatl
  | .scsidath => g.scsidath
  | .stcnt0 => g.stcnt0
  | .stcnt1 => g.stcnt1
  | .stcnt2 => g.stcnt2
  | .simode1 => g.simode1
  | .seltimer => g.seltimer
  | .scamctl => g.scamctl
  | .spiocap => g.spiocap
  | .bedctl => g.bedctl
  | .dspcistatus => g.dspcistatus
  | .brkaddr0 => g.brkaddr0
  | .scbptr => g.scbptr

/-- `reg[NAME] <- v` of a plain register. -/
def StoredRegs.set (g : StoredRegs) (r : PlainReg) (v : Byte) : StoredRegs :=
  match r with
  | .scsiseq => { g with scsiseq := v }
  | .sxfrctl0 => { g with sxfrctl0 := v }
  | .sxfrctl1 => { g with sxfrctl1 := v }
  | .scsirate => { g with scsirate := v }
  | .scsiid => { g with scsiid := v }
  | .scsidatl => { g with scsidatl := v }
  | .scsidath => { g with scsidath := v }
  | .stcnt0 => { g with stcnt0 := v }
  | .stcnt1 => { g with stcnt1 := v }
  | .stcnt2 => { g with stcnt2 := v }
  | .simode1 => { g with simode1 := v }
  | .seltimer => { g with seltimer := v }
  | .scamctl => { g with scamctl := v }
  | .spiocap => { g with spiocap := v }
  | .bedctl => { g with bedctl := v }
  | .dspcistatus => { g with dspcistatus := v }
  | .brkaddr0 => { g with brkaddr0 := v }
  | .scbptr => { g with scbptr := v }

/-! ### The phase as control-signal bits -/

/-- `PhaseCode(phase)`: the table of 10_state.md R35. -/
def phaseCode : Phase → Byte
  | .busFree => 0x00#8
  | .arbitration => 0x04#8
  | .selection => 0x08#8
  | .dataOut => 0x06#8
  | .dataIn => 0x46#8
  | .command => 0x86#8
  | .msgOut => 0xA6#8
  | .status => 0xC6#8
  | .msgIn => 0xE6#8

/-- `DecodePhase(v)` (43_phase_ops.md R293): the phase a byte written to SCSISIGO requests, none for the two
reserved combinations. -/
def decodePhase (v : Byte) : Option Phase :=
  if v[3] then some .selection
  else if !v[2] then some .busFree
  else if !v[1] then some .arbitration
  else match v[7], v[6], v[5] with
    | false, false, false => some .dataOut
    | false, true, false => some .dataIn
    | true, false, false => some .command
    | true, false, true => some .msgOut
    | true, true, false => some .status
    | true, true, true => some .msgIn
    | false, false, true => none
    | false, true, true => none

end Sys2Proof.Machine
end

