-- ==== Sys2Proof/Machine/Flags.lean ====
section
/-! DEFINITION. Flags: every status value the block computes from its state: the engine's enabling condition and
mode, the breakpoint, the interrupt line, and the bytes the status registers show. -/

namespace Sys2Proof.Machine

/-- `CtxWritable(s)` (10_state.md R42): the host may write the execution context. -/
def State.ctxWritable (s : State) : Bool := s.pause || s.halted

/-- `len(qin) = QDEPTH`. -/
def State.qinFull (s : State) : Bool := s.qin.length == s.cfg.qdepth

/-- `len(qout) = QDEPTH`. -/
def State.qoutFull (s : State) : Bool := s.qout.length == s.cfg.qdepth

/-- The stall (40_sequencer.md R171, last conjunct): the next progress action would complete the active SCB but
the output FIFO is full. -/
def State.stalled (s : State) : Bool := s.active.isSome && s.phase == .msgIn && s.qoutFull

/-- There is work: an SCB in flight or one queued. -/
def State.hasWork (s : State) : Bool := s.active.isSome || !s.qin.isEmpty

/-- `CanStep(s)` (40_sequencer.md R171). -/
def State.canStep (s : State) : Bool :=
  !s.halted && !s.pause && !s.loadram && s.hasWork && !s.stalled

/-- `BreakpointHit(s)` (60_exceptions.md R314). -/
def State.breakpointHit (s : State) : Bool := !s.brkdis && s.pc == s.brkAddr

/-- The sequencer's modes (10_state.md R52). -/
inductive Mode where
  | idle
  | loading
  | running
  | paused
  | halted
deriving DecidableEq, Repr

/-- `Mode(s)` (10_state.md R52). -/
def State.mode (s : State) : Mode :=
  if s.halted then .halted
  else if s.loadram then .loading
  else if s.pause && s.active.isSome then .paused
  else if !s.pause && s.hasWork then .running
  else .idle

/-- The code of a mode in SSTAT1.SEQMODE (10_state.md R38). -/
def Mode.code : Mode → BitVec 3
  | .idle => 0#3
  | .loading => 1#3
  | .running => 2#3
  | .paused => 3#3
  | .halted => 4#3

/-- `LineValue(s)` (60_exceptions.md R320): INTEN and some cause pending and enabled in SIMODE0. -/
def State.lineValue (s : State) : Bool :=
  s.inten &&
    ((s.pending.cmdcmplt && Cause.cmdcmplt.bitOf s.regs.simode0) ||
     (s.pending.scsiint && Cause.scsiint.bitOf s.regs.simode0) ||
     (s.pending.brkadrint && Cause.brkadrint.bitOf s.regs.simode0) ||
     (s.pending.parerrint && Cause.parerrint.bitOf s.regs.simode0))

/-- SSTAT0: `zext_8(sstat0)` (10_state.md R37). -/
def TransientBits.toByte (t : TransientBits) : Byte :=
  byteOfBits false false false t.qoutunf t.qinrej t.phasemis t.busfree t.phasechg

/-- No transient bit set. -/
def TransientBits.clear : TransientBits :=
  { phasechg := false, busfree := false, phasemis := false, qinrej := false, qoutunf := false }

/-- SSTAT1: the live status (10_state.md R38, 41_register_ops.md R217). -/
def State.sstat1 (s : State) : Byte :=
  s.mode.code ++ BitVec.ofBool s.active.isSome ++ BitVec.ofBool s.qout.isEmpty ++
    BitVec.ofBool s.qoutFull ++ BitVec.ofBool s.qin.isEmpty ++ BitVec.ofBool s.qinFull

/-- INTSTAT: the pending causes, masked or not (10_state.md R47). -/
def PendingCauses.toByte (p : PendingCauses) : Byte :=
  byteOfBits false false false p.parerrint p.brkadrint p.scsiint p.cmdcmplt false

/-- ERROR: `zext_8(error)` (10_state.md R48). -/
def ErrorRecord.toByte (e : ErrorRecord) : Byte :=
  byteOfBits false false false false e.stkunf e.illopcode e.stkovf e.illphase

/-- `error ≠ 0`. -/
def ErrorRecord.any (e : ErrorRecord) : Bool := e.illphase || e.stkovf || e.illopcode || e.stkunf

end Sys2Proof.Machine
end

