-- ==== Sys2Proof/Machine/Ops.lean ====
section
/-! DEFINITION. The named operations the meanings share: the interrupt aggregator, the entry to Halted, the reset
operation, the phase tracker, the queue operations, the progress action and the common tail of a
retired instruction, and the generic register operations of the host. -/

namespace Sys2Proof.Machine

/-- What a meaning answers. -/
abbrev Result := Host.Outcome State Fault Refusal

/-! ### Interrupt aggregator (60_exceptions.md section 3) -/

/-- `UpdateLine()` (60_exceptions.md R321): the line takes its value, and a change is notified once. -/
def updateLine (s : State) : State :=
  if s.lineValue = s.irqLine then s
  else { s with irqLine := s.lineValue, edges := s.lineValue :: s.edges }

/-- `Raise(c)` (60_exceptions.md R322). -/
def raiseCause (c : Cause) (s : State) : State :=
  updateLine { s with pending := s.pending.set c true }

/-- The pending causes after a CLRINT write: those whose bit of `v` is 1 cleared (41_register_ops.md R240). -/
def PendingCauses.clearBits (p : PendingCauses) (v : Byte) : PendingCauses :=
  { cmdcmplt := p.cmdcmplt && !Cause.cmdcmplt.bitOf v
    scsiint := p.scsiint && !Cause.scsiint.bitOf v
    brkadrint := p.brkadrint && !Cause.brkadrint.bitOf v
    parerrint := p.parerrint && !Cause.parerrint.bitOf v }

/-! ### Taking an exception, and the return from it (60_exceptions.md section 2) -/

/-- `SeqHalt(r)` (60_exceptions.md R313): entry to Halted without a fault (HALT, breakpoint). It saves nothing and
vectors nowhere (R315). -/
def seqHalt (s : State) : State := raiseCause .brkadrint { s with halted := true }

/-- `SeqFault(f)`, "raise f" (60_exceptions.md R312): entry to Halted with the fault recorded. -/
def seqFault (f : SeqError) (s : State) : State := seqHalt { s with error := s.error.mark f }

/-- `Reset()` (70_reset_and_hazards.md R350): every element of the state at its reset value; one falling edge if
the line was asserted. It is the only way out of Halted (60_exceptions.md R315). The configuration, the inputs
still to come, the last read data and the trace so far are no state of the block and stay (log 6). -/
def resetOp (s : State) : State :=
  { State.reset with
    cfg := s.cfg
    inputs := s.inputs
    rdata := s.rdata
    edges := if s.irqLine then false :: s.edges else s.edges }

/-! ### Phase tracker (43_phase_ops.md) -/

/-- The fourteen legal transitions (43_phase_ops.md R291). -/
def legalPairs : List (Phase × Phase) :=
  [ (.busFree, .arbitration), (.arbitration, .selection),
    (.selection, .msgOut), (.selection, .command),
    (.msgOut, .dataIn), (.msgOut, .dataOut), (.msgOut, .status),
    (.command, .dataIn), (.command, .dataOut), (.command, .status),
    (.dataIn, .status), (.dataOut, .status), (.status, .msgIn), (.msgIn, .busFree) ]

/-- `Legal(from, to)`. -/
def legal (source target : Phase) : Bool := decide ((source, target) ∈ legalPairs)

/-- The phase changed to `target` by a legal transition: PHASECHG, and BUSFREE if the target is BusFree
(43_phase_ops.md R292). -/
def movePhase (target : Phase) (s : State) : State :=
  { s with
    phase := target
    sstat0 := { s.sstat0 with phasechg := true, busfree := s.sstat0.busfree || target == .busFree } }

/-- An illegal transition attempt before its fault is raised: PHASEMIS, and BusFree forced
(43_phase_ops.md R292). -/
def forceBusFree (s : State) : State :=
  if s.phase = .busFree then { s with sstat0 := { s.sstat0 with phasemis := true } }
  else { s with
    phase := .busFree
    sstat0 := { s.sstat0 with phasemis := true, phasechg := true, busfree := true } }

/-- `PhaseRequest(to)` (43_phase_ops.md R292). -/
def phaseRequest (target : Phase) (s : State) : State :=
  if target = s.phase then s
  else if legal s.phase target then movePhase target s
  else seqFault .illphase (forceBusFree s)

/-- `PhaseWrite(v)` (43_phase_ops.md R294). -/
def phaseWrite (v : Byte) (s : State) : State :=
  match decodePhase v with
  | some p => phaseRequest p s
  | none => s

/-- The data phase of a command, by its direction bit (43_phase_ops.md R295). -/
def dataPhase (scb : Memory) (i : Byte) : Phase := if scbDirIn scb i then .dataIn else .dataOut

/-- Where a command goes after Command or MsgOut: to its data phase iff it transfers data, else to Status
(43_phase_ops.md R295). -/
def afterCommand (scb : Memory) (i : Byte) : Phase :=
  if scbDataCount scb i ≠ 0 then dataPhase scb i else .status

/-- `NextPhase(phase, i)` (43_phase_ops.md R295). -/
def nextPhase (scb : Memory) (i : Byte) : Phase → Phase
  | .busFree => .arbitration
  | .arbitration => .selection
  | .selection => .command
  | .command => afterCommand scb i
  | .msgOut => afterCommand scb i
  | .dataIn => .status
  | .dataOut => .status
  | .status => .msgIn
  | .msgIn => .busFree

/-! ### Queue manager (42_queue_ops.md) -/

/-- `enqueue_input(v)` (42_queue_ops.md R261): refused with QINREJ when the FIFO is full. -/
def enqueueInput (v : Byte) (s : State) : State :=
  if s.qinFull then { s with sstat0 := { s.sstat0 with qinrej := true } }
  else { s with qin := s.qin ++ [v] }

/-- `dequeue_output()` (42_queue_ops.md R264): the oldest completed index; on an empty FIFO 0xFF and QOUTUNF. -/
def dequeueOutput (s : State) : Byte × State :=
  match s.qout with
  | [] => (0xFF#8, { s with sstat0 := { s.sstat0 with qoutunf := true } })
  | v :: rest => (v, { s with qout := rest })

/-! ### The engine's progress action and retirement -/

/-- `Complete(i)` (43_phase_ops.md R297). Its push needs room in the output FIFO (42_queue_ops.md R268), which
`CanStep` guarantees; without it the call is outside the engine's precondition (log 8). -/
def complete (i : Byte) (s : State) : Result :=
  if s.qoutFull then .fault .qoutFull
  else .next (raiseCause .cmdcmplt (phaseRequest .busFree
    { s with scb := Memory.write s.scb (scbAddr i 3) goodStatus, qout := s.qout ++ [i], active := none }))

/-- `Progress(s)` (43_phase_ops.md R296): one unit of command processing. Its dequeue needs an entry in the input
FIFO (42_queue_ops.md R267), which `CanStep` guarantees; without it the call is outside the engine's
precondition (log 8). -/
def progress (s : State) : Result :=
  match s.active with
  | none =>
    match s.qin with
    | [] => .fault .qinEmpty
    | i :: rest => .next (phaseRequest .arbitration { s with qin := rest, active := some i })
  | some i =>
    if s.phase = .msgIn then complete i s
    else .next (phaseRequest (nextPhase s.scb i s.phase) s)

/-- `reg[HCNTRL].PAUSE <- 1`. -/
def setPause (s : State) : State := { s with regs := { s.regs with hcntrl := s.regs.hcntrl ||| 0x04#8 } }

/-- The last action of `Retire` (40_sequencer.md R174, R179): in single-step mode an engine that did not halt
pauses. -/
def singleStepPause (s : State) : State :=
  if s.halted then s else if s.stepBit then setPause s else s

/-- `Retire(s)` (40_sequencer.md R179). -/
def retire (s : State) : Result :=
  match progress s with
  | .next t => .next (singleStepPause t)
  | .fault r => .fault r
  | .refused r => .refused r

/-- A retiring instruction whose own effect is `pc <- target`. -/
def retireAt (target : SeqAddr) (s : State) : Result := retire { s with pc := target }

/-- A retiring conditional branch: to `target` if taken, to `(pc + 1) mod 512` otherwise. -/
def branch (taken : Bool) (target : SeqAddr) (s : State) : Result :=
  retireAt (if taken then target else s.pc + 1) s

/-! ### The host's register operations -/

/-- A read that returns `v` (20_memory.md R104 step 4): the byte is put on `acc_rdata`. -/
def answerByte (v : Byte) (s : State) : State := { s with rdata := [v] }

/-- RW.R (41_register_ops.md R211). -/
def plainRead (r : PlainReg) (s : State) : Result := .next (answerByte (s.regs.get r) s)

/-- RW.W (41_register_ops.md R211). -/
def plainWrite (r : PlainReg) (v : Byte) (s : State) : Result := .next { s with regs := s.regs.set r v }

/-- A write to a register of class RO or RC: ignored (41_register_ops.md R213). The byte written is dropped. -/
def ignoreWrite (_v : Byte) (s : State) : Result := .next s

/-- A read of a register of class WO: `WO_READ` (41_register_ops.md R213). -/
def readWriteOnly (s : State) : Result := .next (answerByte woRead s)

/-- `SeqReset()` (41_register_ops.md R225). -/
def seqReset (s : State) : State := if s.ctxWritable then { s with pc := 0, sp := 0 } else s

/-- A write of the address behind SEQADDR0/1 (41_register_ops.md R229), `f` being the change of one half:
`load_addr` while loading (which also sets `load_lane <- 0`), else `pc` under the gate, else nothing. -/
def writeSeqAddr (f : SeqAddr → SeqAddr) (s : State) : State :=
  if s.loadram then { s with loadAddr := f s.loadAddr, loadLane := 0 }
  else if s.ctxWritable then { s with pc := f s.pc }
  else s

/-- A write of the RAM-data register while LOADRAM = 1 (41_register_ops.md R226): one lane is filled, then the lane
and, after lane 3, the address advance. -/
def loadByte (v : Byte) (s : State) : State :=
  { s with
    ram := ramWriteLane s.ram s.loadAddr s.loadLane v
    loadLane := s.loadLane + 1
    loadAddr := if s.loadLane = 3 then s.loadAddr + 1 else s.loadAddr }

/-! ### External events (60_exceptions.md R323) -/

/-- `ext_scsi_int`. -/
def extScsiInt (s : State) : State := raiseCause .scsiint s

/-- `ext_parity_err`. -/
def extParityErr (s : State) : State := raiseCause .parerrint s

end Sys2Proof.Machine
end

