-- ==== Sys2Proof/Machine/HostControl.lean ====
section
/-! DEFINITION. Host control: HCNTRL (41_register_ops.md R233, R235, R236). -/

namespace Sys2Proof.Machine

/-- HCNTRL.R (41_register_ops.md R233): `return reg[HCNTRL]`; bit 0 is never stored. -/
def execHcntrlR (s : State) : Result := .next (answerByte s.regs.hcntrl s)

/-- HCNTRL.W: with `v[0]` = 1 CHIPRST, the full reset, the other bits discarded (41_register_ops.md R236); with
`v[0]` = 0 `reg[HCNTRL] <- v; UpdateLine()` (R235). -/
def execHcntrlW (v : Byte) (s : State) : Result :=
  .next (if v[0] then resetOp s else updateLine { s with regs := { s.regs with hcntrl := v } })

end Sys2Proof.Machine
end

