-- ==== Sys2Proof/Machine/PlainRegisters.lean ====
section
/-! DEFINITION. The plain registers of class RW: the sixteen inert ones (10_state.md R33), BRKADDR0 and SCBPTR
(41_register_ops.md R211, 42_queue_ops.md R271). -/

namespace Sys2Proof.Machine

/-- SCSISEQ.R (41_register_ops.md R211): `return reg[SCSISEQ]`. -/
def execScsiseqR (s : State) : Result := plainRead .scsiseq s

/-- SCSISEQ.W (41_register_ops.md R211): `reg[SCSISEQ] <- v`. -/
def execScsiseqW (v : Byte) (s : State) : Result := plainWrite .scsiseq v s

/-- SXFRCTL0.R (41_register_ops.md R211): `return reg[SXFRCTL0]`. -/
def execSxfrctl0R (s : State) : Result := plainRead .sxfrctl0 s

/-- SXFRCTL0.W (41_register_ops.md R211): `reg[SXFRCTL0] <- v`. -/
def execSxfrctl0W (v : Byte) (s : State) : Result := plainWrite .sxfrctl0 v s

/-- SXFRCTL1.R (41_register_ops.md R211): `return reg[SXFRCTL1]`. -/
def execSxfrctl1R (s : State) : Result := plainRead .sxfrctl1 s

/-- SXFRCTL1.W (41_register_ops.md R211): `reg[SXFRCTL1] <- v`. -/
def execSxfrctl1W (v : Byte) (s : State) : Result := plainWrite .sxfrctl1 v s

/-- SCSIRATE.R (41_register_ops.md R211): `return reg[SCSIRATE]`. -/
def execScsirateR (s : State) : Result := plainRead .scsirate s

/-- SCSIRATE.W (41_register_ops.md R211): `reg[SCSIRATE] <- v`. -/
def execScsirateW (v : Byte) (s : State) : Result := plainWrite .scsirate v s

/-- SCSIID.R (41_register_ops.md R211): `return reg[SCSIID]`. -/
def execScsiidR (s : State) : Result := plainRead .scsiid s

/-- SCSIID.W (41_register_ops.md R211): `reg[SCSIID] <- v`. -/
def execScsiidW (v : Byte) (s : State) : Result := plainWrite .scsiid v s

/-- SCSIDATL.R (41_register_ops.md R211): `return reg[SCSIDATL]`. -/
def execScsidatlR (s : State) : Result := plainRead .scsidatl s

/-- SCSIDATL.W (41_register_ops.md R211): `reg[SCSIDATL] <- v`. -/
def execScsidatlW (v : Byte) (s : State) : Result := plainWrite .scsidatl v s

/-- SCSIDATH.R (41_register_ops.md R211): `return reg[SCSIDATH]`. -/
def execScsidathR (s : State) : Result := plainRead .scsidath s

/-- SCSIDATH.W (41_register_ops.md R211): `reg[SCSIDATH] <- v`. -/
def execScsidathW (v : Byte) (s : State) : Result := plainWrite .scsidath v s

/-- STCNT0.R (41_register_ops.md R211): `return reg[STCNT0]`. -/
def execStcnt0R (s : State) : Result := plainRead .stcnt0 s

/-- STCNT0.W (41_register_ops.md R211): `reg[STCNT0] <- v`. -/
def execStcnt0W (v : Byte) (s : State) : Result := plainWrite .stcnt0 v s

/-- STCNT1.R (41_register_ops.md R211): `return reg[STCNT1]`. -/
def execStcnt1R (s : State) : Result := plainRead .stcnt1 s

/-- STCNT1.W (41_register_ops.md R211): `reg[STCNT1] <- v`. -/
def execStcnt1W (v : Byte) (s : State) : Result := plainWrite .stcnt1 v s

/-- STCNT2.R (41_register_ops.md R211): `return reg[STCNT2]`. -/
def execStcnt2R (s : State) : Result := plainRead .stcnt2 s

/-- STCNT2.W (41_register_ops.md R211): `reg[STCNT2] <- v`. -/
def execStcnt2W (v : Byte) (s : State) : Result := plainWrite .stcnt2 v s

/-- SIMODE1.R (41_register_ops.md R211): `return reg[SIMODE1]`. -/
def execSimode1R (s : State) : Result := plainRead .simode1 s

/-- SIMODE1.W (41_register_ops.md R211): `reg[SIMODE1] <- v`. -/
def execSimode1W (v : Byte) (s : State) : Result := plainWrite .simode1 v s

/-- SELTIMER.R (41_register_ops.md R211): `return reg[SELTIMER]`. -/
def execSeltimerR (s : State) : Result := plainRead .seltimer s

/-- SELTIMER.W (41_register_ops.md R211): `reg[SELTIMER] <- v`. -/
def execSeltimerW (v : Byte) (s : State) : Result := plainWrite .seltimer v s

/-- SCAMCTL.R (41_register_ops.md R211): `return reg[SCAMCTL]`. -/
def execScamctlR (s : State) : Result := plainRead .scamctl s

/-- SCAMCTL.W (41_register_ops.md R211): `reg[SCAMCTL] <- v`. -/
def execScamctlW (v : Byte) (s : State) : Result := plainWrite .scamctl v s

/-- SPIOCAP.R (41_register_ops.md R211): `return reg[SPIOCAP]`. -/
def execSpiocapR (s : State) : Result := plainRead .spiocap s

/-- SPIOCAP.W (41_register_ops.md R211): `reg[SPIOCAP] <- v`. -/
def execSpiocapW (v : Byte) (s : State) : Result := plainWrite .spiocap v s

/-- BEDCTL.R (41_register_ops.md R211): `return reg[BEDCTL]`. -/
def execBedctlR (s : State) : Result := plainRead .bedctl s

/-- BEDCTL.W (41_register_ops.md R211): `reg[BEDCTL] <- v`. -/
def execBedctlW (v : Byte) (s : State) : Result := plainWrite .bedctl v s

/-- BRKADDR0.R (41_register_ops.md R211): `return reg[BRKADDR0]`. -/
def execBrkaddr0R (s : State) : Result := plainRead .brkaddr0 s

/-- BRKADDR0.W (41_register_ops.md R211): `reg[BRKADDR0] <- v`. -/
def execBrkaddr0W (v : Byte) (s : State) : Result := plainWrite .brkaddr0 v s

/-- DSPCISTATUS.R (41_register_ops.md R211): `return reg[DSPCISTATUS]`. -/
def execDspcistatusR (s : State) : Result := plainRead .dspcistatus s

/-- DSPCISTATUS.W (41_register_ops.md R211): `reg[DSPCISTATUS] <- v`. -/
def execDspcistatusW (v : Byte) (s : State) : Result := plainWrite .dspcistatus v s

/-- SCBPTR.R (41_register_ops.md R211): `return reg[SCBPTR]`. -/
def execScbptrR (s : State) : Result := plainRead .scbptr s

/-- SCBPTR.W (41_register_ops.md R211): `reg[SCBPTR] <- v`. -/
def execScbptrW (v : Byte) (s : State) : Result := plainWrite .scbptr v s

end Sys2Proof.Machine
end

