-- ==== Sys2Proof/Machine/Queues.lean ====
section
/-! DEFINITION. The queue registers and the SCB window (42_queue_ops.md R261 to R270). -/

namespace Sys2Proof.Machine

/-- QINFIFO.R (42_queue_ops.md R262): `WO_READ`; it does not dequeue. -/
def execQinfifoR (s : State) : Result := readWriteOnly s

/-- QINFIFO.W (42_queue_ops.md R261): `enqueue_input(v)`. -/
def execQinfifoW (v : Byte) (s : State) : Result := .next (enqueueInput v s)

/-- QINCNT.R (42_queue_ops.md R263): `len(qin)` as a byte. -/
def execQincntR (s : State) : Result := .next (answerByte (BitVec.ofNat 8 s.qin.length) s)

/-- QINCNT.W (42_queue_ops.md R266): ignored. -/
def execQincntW (v : Byte) (s : State) : Result := ignoreWrite v s

/-- QOUTFIFO.R (42_queue_ops.md R264): `dequeue_output()`. -/
def execQoutfifoR (s : State) : Result := .next (answerByte (dequeueOutput s).1 (dequeueOutput s).2)

/-- QOUTFIFO.W (42_queue_ops.md R266): ignored. -/
def execQoutfifoW (v : Byte) (s : State) : Result := ignoreWrite v s

/-- QOUTCNT.R (42_queue_ops.md R265): `len(qout)` as a byte. -/
def execQoutcntR (s : State) : Result := .next (answerByte (BitVec.ofNat 8 s.qout.length) s)

/-- QOUTCNT.W (42_queue_ops.md R266): ignored. -/
def execQoutcntW (v : Byte) (s : State) : Result := ignoreWrite v s

/-- SCBWIN.R (42_queue_ops.md R270): `return scb[reg[SCBPTR]][k]`. -/
def execScbwinR (k : BitVec 5) (s : State) : Result := .next (answerByte (scbByte s.scb s.regs.scbptr k) s)

/-- SCBWIN.W (42_queue_ops.md R270): `scb[reg[SCBPTR]][k] <- v`. -/
def execScbwinW (k : BitVec 5) (v : Byte) (s : State) : Result :=
  .next { s with scb := Memory.write s.scb (scbAddr s.regs.scbptr k) v }

end Sys2Proof.Machine
end

