-- ==== Sys2Proof/Machine/Sequencer.lean ====
section
/-! DEFINITION. The nine sequencer instructions (40_sequencer.md R180 to R188). Each is executed by `SeqStep` under
`CanStep` (40_sequencer.md R173; Machine/Engine.lean). -/

namespace Sys2Proof.Machine

/-- OPAQUE (R180): `pc <- (pc + 1) mod 512`; the word is uninterpreted. -/
def execOpaque (_w : SeqWord) (s : State) : Result := retireAt (s.pc + 1) s

/-- JMP addr (R181). -/
def execJmp (addr : SeqAddr) (s : State) : Result := retireAt addr s

/-- JZ imm, addr (R182): taken iff `(accum and imm) = 0`. -/
def execJz (imm : Byte) (addr : SeqAddr) (s : State) : Result := branch (s.accum &&& imm == 0) addr s

/-- JNZ imm, addr (R183): taken iff `(accum and imm) ≠ 0`. -/
def execJnz (imm : Byte) (addr : SeqAddr) (s : State) : Result := branch (s.accum &&& imm != 0) addr s

/-- CALL addr (R184): STKOVF with four return addresses stacked, `pc`, `stack` and `sp` unchanged; else pushes
`(pc + 1) mod 512`. -/
def execCall (addr : SeqAddr) (s : State) : Result :=
  if h : s.sp.val < 4 then
    retireAt addr { s with stack := s.stack.set s.sp.val (s.pc + 1) h, sp := ⟨s.sp.val + 1, by omega⟩ }
  else .next (seqFault .stkovf s)

/-- JE imm, addr (R185): taken iff `accum = imm`. -/
def execJe (imm : Byte) (addr : SeqAddr) (s : State) : Result := branch (s.accum == imm) addr s

/-- JNE imm, addr (R186): taken iff `accum ≠ imm`. -/
def execJne (imm : Byte) (addr : SeqAddr) (s : State) : Result := branch (s.accum != imm) addr s

/-- RET (R187): STKUNF on an empty stack, `pc` and `sp` unchanged; else pops into `pc`; the popped entry keeps
its value. -/
def execRet (s : State) : Result :=
  if h : 0 < s.sp.val then
    retireAt (s.stack[s.sp.val - 1]'(by omega)) { s with sp := ⟨s.sp.val - 1, by omega⟩ }
  else .next (seqFault .stkunf s)

/-- HALT (R188): `pc <- (pc + 1) mod 512`, then Halted; it does not retire. -/
def execHalt (s : State) : Result := .next (seqHalt { s with pc := s.pc + 1 })

end Sys2Proof.Machine
end

