-- ==== Sys2Proof/Machine/SequencerRegisters.lean ====
section
/-! DEFINITION. The sequencer's control and context registers: SEQCTL, SEQRAM, SEQADDR0/1, ACCUM, SINDEX, DINDEX,
BRKADDR1 (41_register_ops.md R223 to R231). -/

namespace Sys2Proof.Machine

/-- SEQCTL.R (41_register_ops.md R223): `return reg[SEQCTL]`; bit 1 is never stored. -/
def execSeqctlR (s : State) : Result := .next (answerByte s.regs.seqctl s)

/-- The stored bits of a SEQCTL write: all but bit 1 (41_register_ops.md R224). -/
def storeSeqctl (v : Byte) (s : State) : State := { s with regs := { s.regs with seqctl := v &&& 0xFD#8 } }

/-- A 0-to-1 change of LOADRAM starts a load sequence at address 0 (41_register_ops.md R224). -/
def startLoad (edge : Bool) (s : State) : State := if edge then { s with loadAddr := 0, loadLane := 0 } else s

/-- SEQCTL.W (41_register_ops.md R224, 70_reset_and_hazards.md R367): the SEQRESET action against the gate as it stood,
then the stored bits, then the LOADRAM edge. -/
def execSeqctlW (v : Byte) (s : State) : Result :=
  .next (startLoad (!s.loadram && v[0]) (storeSeqctl v (if v[1] then seqReset s else s)))

/-- SEQRAM.R (41_register_ops.md R227): `WO_READ`; the pointer does not advance. -/
def execSeqramR (s : State) : Result := readWriteOnly s

/-- SEQRAM.W (41_register_ops.md R226): fills one lane while LOADRAM = 1, else nothing. -/
def execSeqramW (v : Byte) (s : State) : Result := .next (if s.loadram then loadByte v s else s)

/-- SEQADDR0.R (41_register_ops.md R228): `a[7:0]`. -/
def execSeqaddr0R (s : State) : Result := .next (answerByte (addrLow s.seqAddr) s)

/-- SEQADDR0.W (41_register_ops.md R229). -/
def execSeqaddr0W (v : Byte) (s : State) : Result := .next (writeSeqAddr (fun a => setAddrLow a v) s)

/-- SEQADDR1.R (41_register_ops.md R228): `zext_8(a[8])`. -/
def execSeqaddr1R (s : State) : Result := .next (answerByte (addrHigh s.seqAddr) s)

/-- SEQADDR1.W (41_register_ops.md R229). -/
def execSeqaddr1W (v : Byte) (s : State) : Result := .next (writeSeqAddr (fun a => setAddrHigh a v) s)

/-- ACCUM.R (41_register_ops.md R230). -/
def execAccumR (s : State) : Result := .next (answerByte s.accum s)

/-- ACCUM.W (41_register_ops.md R230): under the gate. -/
def execAccumW (v : Byte) (s : State) : Result := .next (if s.ctxWritable then { s with accum := v } else s)

/-- SINDEX.R (41_register_ops.md R230). -/
def execSindexR (s : State) : Result := .next (answerByte s.sindex s)

/-- SINDEX.W (41_register_ops.md R230): under the gate. -/
def execSindexW (v : Byte) (s : State) : Result := .next (if s.ctxWritable then { s with sindex := v } else s)

/-- DINDEX.R (41_register_ops.md R230). -/
def execDindexR (s : State) : Result := .next (answerByte s.dindex s)

/-- DINDEX.W (41_register_ops.md R230): under the gate. -/
def execDindexW (v : Byte) (s : State) : Result := .next (if s.ctxWritable then { s with dindex := v } else s)

/-- BRKADDR1.R (41_register_ops.md R231). -/
def execBrkaddr1R (s : State) : Result := .next (answerByte s.regs.brkaddr1 s)

/-- BRKADDR1.W (41_register_ops.md R231): bit 7 BRKDIS and bit 0 stored. -/
def execBrkaddr1W (v : Byte) (s : State) : Result :=
  .next { s with regs := { s.regs with brkaddr1 := v &&& 0x81#8 } }

end Sys2Proof.Machine
end

