-- ==== Sys2Proof/Machine/StatusRegisters.lean ====
section
/-! DEFINITION. The signal, status and interrupt registers: SCSISIGI/SCSISIGO, SSTAT0, SSTAT1, SIMODE0, STACK, INTSTAT,
ERROR, CLRINT (41_register_ops.md R213 to R218, R232, R238 to R240; 43_phase_ops.md R294). -/

namespace Sys2Proof.Machine

/-- SCSISIGI.R (41_register_ops.md R214): `return PhaseCode(phase)`. -/
def execScsisigiR (s : State) : Result := .next (answerByte (phaseCode s.phase) s)

/-- SCSISIGO.W (41_register_ops.md R215): `PhaseWrite(v)`; nothing is stored. -/
def execScsisigoW (v : Byte) (s : State) : Result := .next (phaseWrite v s)

/-- SSTAT0.R (41_register_ops.md R216): returns the transient bits, then clears all five. -/
def execSstat0R (s : State) : Result :=
  .next (answerByte s.sstat0.toByte { s with sstat0 := TransientBits.clear })

/-- SSTAT0.W (41_register_ops.md R213): ignored. -/
def execSstat0W (v : Byte) (s : State) : Result := ignoreWrite v s

/-- SSTAT1.R (41_register_ops.md R217). -/
def execSstat1R (s : State) : Result := .next (answerByte s.sstat1 s)

/-- SSTAT1.W (41_register_ops.md R213): ignored. -/
def execSstat1W (v : Byte) (s : State) : Result := ignoreWrite v s

/-- SIMODE0.R (41_register_ops.md R218). -/
def execSimode0R (s : State) : Result := .next (answerByte s.regs.simode0 s)

/-- SIMODE0.W (41_register_ops.md R218): `reg[SIMODE0] <- v; UpdateLine()`. -/
def execSimode0W (v : Byte) (s : State) : Result :=
  .next (updateLine { s with regs := { s.regs with simode0 := v } })

/-- STACK.R (41_register_ops.md R232): `zext_8(sp)`. -/
def execStackR (s : State) : Result := .next (answerByte (BitVec.ofNat 8 s.sp.val) s)

/-- STACK.W (41_register_ops.md R213): ignored. -/
def execStackW (v : Byte) (s : State) : Result := ignoreWrite v s

/-- INTSTAT.R (41_register_ops.md R238). -/
def execIntstatR (s : State) : Result := .next (answerByte s.pending.toByte s)

/-- INTSTAT.W (41_register_ops.md R213): ignored. -/
def execIntstatW (v : Byte) (s : State) : Result := ignoreWrite v s

/-- ERROR.R (41_register_ops.md R239): `zext_8(error)`. -/
def execErrorR (s : State) : Result := .next (answerByte s.error.toByte s)

/-- CLRINT.W (41_register_ops.md R240): clears each cause whose bit of `v` is 1, then one `UpdateLine()`. -/
def execClrintW (v : Byte) (s : State) : Result :=
  .next (updateLine { s with pending := s.pending.clearBits v })

end Sys2Proof.Machine
end

