-- ==== Sys2Proof/Machine/Dispatch.lean ====
section
/-! DEFINITION. `exec`: one arm per constructor of `Instr`, each one call of its meaning. -/

namespace Sys2Proof.Machine

def exec (i : Instr) (s : State) : Host.Outcome State Fault Refusal :=
  match i with
  | .opaqueWord w => Sys2Proof.Machine.execOpaque w s
  | .jmp addr => Sys2Proof.Machine.execJmp addr s
  | .jz imm addr => Sys2Proof.Machine.execJz imm addr s
  | .jnz imm addr => Sys2Proof.Machine.execJnz imm addr s
  | .call addr => Sys2Proof.Machine.execCall addr s
  | .je imm addr => Sys2Proof.Machine.execJe imm addr s
  | .jne imm addr => Sys2Proof.Machine.execJne imm addr s
  | .ret => Sys2Proof.Machine.execRet s
  | .halt => Sys2Proof.Machine.execHalt s
  | .scsiseqR => Sys2Proof.Machine.execScsiseqR s
  | .scsiseqW v => Sys2Proof.Machine.execScsiseqW v s
  | .sxfrctl0R => Sys2Proof.Machine.execSxfrctl0R s
  | .sxfrctl0W v => Sys2Proof.Machine.execSxfrctl0W v s
  | .sxfrctl1R => Sys2Proof.Machine.execSxfrctl1R s
  | .sxfrctl1W v => Sys2Proof.Machine.execSxfrctl1W v s
  | .scsisigiR => Sys2Proof.Machine.execScsisigiR s
  | .scsisigoW v => Sys2Proof.Machine.execScsisigoW v s
  | .scsirateR => Sys2Proof.Machine.execScsirateR s
  | .scsirateW v => Sys2Proof.Machine.execScsirateW v s
  | .scsiidR => Sys2Proof.Machine.execScsiidR s
  | .scsiidW v => Sys2Proof.Machine.execScsiidW v s
  | .scsidatlR => Sys2Proof.Machine.execScsidatlR s
  | .scsidatlW v => Sys2Proof.Machine.execScsidatlW v s
  | .scsidathR => Sys2Proof.Machine.execScsidathR s
  | .scsidathW v => Sys2Proof.Machine.execScsidathW v s
  | .stcnt0R => Sys2Proof.Machine.execStcnt0R s
  | .stcnt0W v => Sys2Proof.Machine.execStcnt0W v s
  | .stcnt1R => Sys2Proof.Machine.execStcnt1R s
  | .stcnt1W v => Sys2Proof.Machine.execStcnt1W v s
  | .stcnt2R => Sys2Proof.Machine.execStcnt2R s
  | .stcnt2W v => Sys2Proof.Machine.execStcnt2W v s
  | .sstat0R => Sys2Proof.Machine.execSstat0R s
  | .sstat0W v => Sys2Proof.Machine.execSstat0W v s
  | .sstat1R => Sys2Proof.Machine.execSstat1R s
  | .sstat1W v => Sys2Proof.Machine.execSstat1W v s
  | .simode0R => Sys2Proof.Machine.execSimode0R s
  | .simode0W v => Sys2Proof.Machine.execSimode0W v s
  | .simode1R => Sys2Proof.Machine.execSimode1R s
  | .simode1W v => Sys2Proof.Machine.execSimode1W v s
  | .seltimerR => Sys2Proof.Machine.execSeltimerR s
  | .seltimerW v => Sys2Proof.Machine.execSeltimerW v s
  | .scamctlR => Sys2Proof.Machine.execScamctlR s
  | .scamctlW v => Sys2Proof.Machine.execScamctlW v s
  | .spiocapR => Sys2Proof.Machine.execSpiocapR s
  | .spiocapW v => Sys2Proof.Machine.execSpiocapW v s
  | .bedctlR => Sys2Proof.Machine.execBedctlR s
  | .bedctlW v => Sys2Proof.Machine.execBedctlW v s
  | .seqctlR => Sys2Proof.Machine.execSeqctlR s
  | .seqctlW v => Sys2Proof.Machine.execSeqctlW v s
  | .seqramR => Sys2Proof.Machine.execSeqramR s
  | .seqramW v => Sys2Proof.Machine.execSeqramW v s
  | .seqaddr0R => Sys2Proof.Machine.execSeqaddr0R s
  | .seqaddr0W v => Sys2Proof.Machine.execSeqaddr0W v s
  | .seqaddr1R => Sys2Proof.Machine.execSeqaddr1R s
  | .seqaddr1W v => Sys2Proof.Machine.execSeqaddr1W v s
  | .accumR => Sys2Proof.Machine.execAccumR s
  | .accumW v => Sys2Proof.Machine.execAccumW v s
  | .sindexR => Sys2Proof.Machine.execSindexR s
  | .sindexW v => Sys2Proof.Machine.execSindexW v s
  | .dindexR => Sys2Proof.Machine.execDindexR s
  | .dindexW v => Sys2Proof.Machine.execDindexW v s
  | .brkaddr0R => Sys2Proof.Machine.execBrkaddr0R s
  | .brkaddr0W v => Sys2Proof.Machine.execBrkaddr0W v s
  | .brkaddr1R => Sys2Proof.Machine.execBrkaddr1R s
  | .brkaddr1W v => Sys2Proof.Machine.execBrkaddr1W v s
  | .stackR => Sys2Proof.Machine.execStackR s
  | .stackW v => Sys2Proof.Machine.execStackW v s
  | .dspcistatusR => Sys2Proof.Machine.execDspcistatusR s
  | .dspcistatusW v => Sys2Proof.Machine.execDspcistatusW v s
  | .hcntrlR => Sys2Proof.Machine.execHcntrlR s
  | .hcntrlW v => Sys2Proof.Machine.execHcntrlW v s
  | .scbptrR => Sys2Proof.Machine.execScbptrR s
  | .scbptrW v => Sys2Proof.Machine.execScbptrW v s
  | .intstatR => Sys2Proof.Machine.execIntstatR s
  | .intstatW v => Sys2Proof.Machine.execIntstatW v s
  | .errorR => Sys2Proof.Machine.execErrorR s
  | .clrintW v => Sys2Proof.Machine.execClrintW v s
  | .qinfifoR => Sys2Proof.Machine.execQinfifoR s
  | .qinfifoW v => Sys2Proof.Machine.execQinfifoW v s
  | .qincntR => Sys2Proof.Machine.execQincntR s
  | .qincntW v => Sys2Proof.Machine.execQincntW v s
  | .qoutfifoR => Sys2Proof.Machine.execQoutfifoR s
  | .qoutfifoW v => Sys2Proof.Machine.execQoutfifoW v s
  | .qoutcntR => Sys2Proof.Machine.execQoutcntR s
  | .qoutcntW v => Sys2Proof.Machine.execQoutcntW v s
  | .scbwinR k => Sys2Proof.Machine.execScbwinR k s
  | .scbwinW k v => Sys2Proof.Machine.execScbwinW k v s

end Sys2Proof.Machine
end

