-- ==== Sys2Proof/Machine/Engine.lean ====
section
/-! DEFINITION. The engine's step (40_sequencer.md R173), the acceptance of one input (20_memory.md R104, R105), one
transition of the model made of the two, and the whole run and the whole access as the spec writes them
(40_sequencer.md R172, 20_memory.md R104). -/

namespace Sys2Proof.Machine

/-- `Fetch(pc)` (20_memory.md R112). -/
def State.fetch (s : State) : SeqWord := ramWord s.ram s.pc

/-- The decoded instruction, or the ILLOPCODE fault of a malformed word: steps 3 to 5 of `SeqStep`
(40_sequencer.md R173). -/
def execWord (w : SeqWord) (s : State) : Result :=
  match decodeWord w with
  | .instr i => exec i s
  | .reject _ => .next (seqFault .illopcode s)

/-- `SeqStep(s)` (40_sequencer.md R173); its precondition is `CanStep(s)`. -/
def seqStep (s : State) : Result :=
  if s.breakpointHit then .next (seqHalt s) else execWord s.fetch s

/-- The register effect of one host access (20_memory.md R104 steps 1, 2 and 4): absorbed unless accepted, the UNKNOWN
operations where the map lists nothing (41_register_ops.md R212), else the register operation. -/
def acceptAccess (a : Access) (s : State) : Result :=
  match decodeAccess a with
  | .instr i => exec i s
  | .reject .absorbedRead => .next { s with rdata := List.replicate a.size unknownRead }
  | .reject .absorbedWrite => .next s
  | .reject .unknownRead => .next (answerByte unknownRead s)
  | .reject .unknownWrite => .next s
  | .reject .malformed => .next s

/-- One input processed (20_memory.md R114): an access's register effect, the reset operation, or an event
(60_exceptions.md R323). -/
def acceptInput (i : Input) (s : State) : Result :=
  match i with
  | .access a => acceptAccess a s
  | .reset => .next (resetOp s)
  | .extScsiInt => .next (extScsiInt s)
  | .extParityErr => .next (extParityErr s)

/-- One transition (20_memory.md R109, log 1): an engine step whenever the engine can take one, which is the `Run()`
that ends an access (40_sequencer.md R172); otherwise the next input; with neither, nothing happens. -/
def transition (s : State) : Result :=
  if s.canStep then seqStep s
  else match s.inputs with
    | [] => .next s
    | i :: rest => acceptInput i { s with inputs := rest }

/-! ### The run and the access as one -/

/-- At most `n` engine steps of `Run()` (40_sequencer.md R172): it ends early when `CanStep` is false. -/
def runFor : Nat → State → Result
  | 0, s => .next s
  | n + 1, s =>
    if s.canStep then
      match seqStep s with
      | .next t => runFor n t
      | .fault r => .fault r
      | .refused r => .refused r
    else .next s

/-- `rem(s)` of 40_sequencer.md R175 for an SCB in flight. -/
def Phase.remaining : Phase → Nat
  | .busFree => 7
  | .arbitration => 6
  | .selection => 5
  | .command => 4
  | .msgOut => 4
  | .dataIn => 3
  | .dataOut => 3
  | .status => 2
  | .msgIn => 1

/-- The measure `M(s)` (40_sequencer.md R175). -/
def State.measure (s : State) : Nat :=
  7 * s.qin.length + (if s.active.isSome then s.phase.remaining else 0)

/-- `Run()` (40_sequencer.md R172): `M(s) + 1` steps are enough for it to end (R175). -/
def run (s : State) : Result := runFor (s.measure + 1) s

/-- `Access(dir, offset, size, wdata)` as one indivisible transition (20_memory.md R104, R109): the register effect,
then `Run()` unless the access is absorbed (R105). -/
def access (a : Access) (s : State) : Result :=
  match acceptAccess a s with
  | .next t => if a.accepted then run t else .next t
  | .fault r => .fault r
  | .refused r => .refused r

/-! ### Placing one instruction where the next transition runs it (log 12) -/

/-- The four lanes of a RAM word. -/
def ramWriteWord (m : Memory) (a : SeqAddr) (w : SeqWord) : Memory :=
  ramWriteLane (ramWriteLane (ramWriteLane (ramWriteLane m a 0 (w.extractLsb' 0 8)) a 1 (w.extractLsb' 8 8))
    a 2 (w.extractLsb' 16 8)) a 3 (w.extractLsb' 24 8)

/-- The state with the engine able to step: not halted, not paused, not loading, with an SCB to process, not
stalled, no breakpoint at `pc`. Only what stands in the way is changed. -/
def enableStep (s : State) : State :=
  { s with
    halted := false
    regs := { s.regs with
      hcntrl := s.regs.hcntrl &&& 0xFB#8
      seqctl := s.regs.seqctl &&& 0xFE#8
      brkaddr1 := if s.breakpointHit then s.regs.brkaddr1 ||| 0x80#8 else s.regs.brkaddr1 }
    qin := if s.hasWork then s.qin else [0x00#8]
    qout := if s.stalled then s.qout.dropLast else s.qout }

/-- A word placed at `pc` with the engine able to step. -/
def placeWord (w : SeqWord) (s : State) : State :=
  enableStep { s with ram := ramWriteWord s.ram s.pc w }

/-- An access placed as the next input; an engine that could step is paused, since an access is accepted only
between runs. -/
def placeAccess (a : Access) (s : State) : State :=
  { (if s.canStep then setPause s else s) with inputs := .access a :: s.inputs }

/-- One instruction of either kind, placed so that the very next transition runs it. -/
def placeCode (c : Code) (s : State) : State :=
  match c with
  | .word w => placeWord w s
  | .access a => placeAccess a s

end Sys2Proof.Machine
end

