-- ==== Sys2Proof/Machine/Step.lean ====
section
/-! DEFINITION. The machine's step, and the placing of one instruction for it. -/

namespace Sys2Proof.Machine

/-- One step of the machine: `transition` of Machine/Engine.lean. -/
def step (s : State) : Host.Outcome State Fault Refusal := transition s

/-- `s` with the instruction whose bits are `w` (opcode table numbering) placed so that the very next `step` runs
it: a sequencer word at `pc` with the engine able to step, a host access as the next input (log 12). -/
def State.withFetchWord (s : State) (nbits w : Nat) : State := placeCode (tableCode nbits w) s

end Sys2Proof.Machine
end

