-- ==== Sys2Proof/Machine/Assembler.lean ====
section
/-! DEFINITION. The notation of sequencer programs (30_encoding.md R149, R150) as data, its two-pass assembly, and the host
accesses that load a program (70_reset_and_hazards.md R354 step 3). Machine/Notation.lean reads the lines from text
(log 15). -/

namespace Sys2Proof.Machine

/-- An address operand: a number or a label. -/
inductive AsmTarget where
  | addr (a : SeqAddr)
  | label (name : String)
deriving DecidableEq, Repr

/-- One line of a program (30_encoding.md R149, R150). -/
inductive AsmLine where
  /-- `name:` stands for the word address of the next instruction -/
  | label (name : String)
  | jmp (t : AsmTarget)
  | jz (imm : Byte) (t : AsmTarget)
  | jnz (imm : Byte) (t : AsmTarget)
  | call (t : AsmTarget)
  | je (imm : Byte) (t : AsmTarget)
  | jne (imm : Byte) (t : AsmTarget)
  | ret
  | halt
  /-- the pseudo-instruction `nop` = `.word 0x00000000` -/
  | nop
  /-- `.word n` -/
  | word (n : SeqWord)
  /-- `.org t`: the address of the next instruction -/
  | org (t : AsmTarget)
deriving DecidableEq, Repr

/-- The address an operand stands for, `resolve` giving the address of a label. -/
def AsmTarget.address (resolve : String → Option SeqAddr) : AsmTarget → Option SeqAddr
  | .addr a => some a
  | .label n => resolve n

/-- The address after a line that stands at address `at_`; none after an `.org` of an operand without an address. -/
def AsmLine.next (resolve : String → Option SeqAddr) (l : AsmLine) (at_ : Option Nat) : Option Nat :=
  match l with
  | .label _ => at_
  | .org t => (t.address resolve).map BitVec.toNat
  | _ => at_.map (· + 1)

/-- The address of the next instruction of lines that start at address `at_`, past the labels and the `.org` lines
before it. Where no instruction follows it is the address after the last line: DESIGN CHOICE, R149 does not say
(log 15). -/
def instrAddr (resolve : String → Option SeqAddr) : List AsmLine → Option Nat → Option Nat
  | [], at_ => at_
  | .label _ :: rest, at_ => instrAddr resolve rest at_
  | .org t :: rest, at_ => instrAddr resolve rest ((AsmLine.org t).next resolve at_)
  | _ :: _, at_ => at_

/-- The address of a label in lines that start at address `at_`: that of the next instruction after it (R149), so an
`.org` between the two counts. Of two labels of one name the first counts: DESIGN CHOICE (log 15). -/
def labelFrom (resolve : String → Option SeqAddr) (name : String) : List AsmLine → Option Nat → Option Nat
  | [], _ => none
  | .label n :: rest, at_ =>
    if n = name then instrAddr resolve rest at_ else labelFrom resolve name rest at_
  | l :: rest, at_ => labelFrom resolve name rest (l.next resolve at_)

/-- The address of a label of a program, its first line at address 0, through at most `fuel` labels that are operands
of `.org`. A label may stand after the `.org` that uses it; one whose address needs itself, or is 512 or more, has
none: DESIGN CHOICE (log 15). -/
def labelAddr (program : List AsmLine) : Nat → String → Option SeqAddr
  | 0, _ => none
  | fuel + 1, name =>
    match labelFrom (labelAddr program fuel) name program (some 0) with
    | some a => if a < seqWords then some (BitVec.ofNat 9 a) else none
    | none => none

/-- The address of a label of a program: a chain of labels without a circle is no longer than the program. -/
def labelOf (program : List AsmLine) : String → Option SeqAddr := labelAddr program (program.length + 1)

/-- The address an operand stands for in a program: none for an undefined label or one past the RAM. -/
def AsmTarget.resolve (program : List AsmLine) (t : AsmTarget) : Option SeqAddr := t.address (labelOf program)

/-- The instruction word of a line, if it has one: `some none` for a line without a word. -/
def AsmLine.encodeLine (program : List AsmLine) : AsmLine → Option (Option SeqWord)
  | .label _ => some none
  | .org t => (t.resolve program).map fun _ => none
  | .nop => some (some 0x00000000#32)
  | .word n => some (some n)
  | .ret => some (some (seqWord 0xE 0 0))
  | .halt => some (some (seqWord 0xF 0 0))
  | .jmp t => (t.resolve program).map fun a => some (seqWord 0x8 a 0)
  | .call t => (t.resolve program).map fun a => some (seqWord 0xB a 0)
  | .jz imm t => (t.resolve program).map fun a => some (seqWord 0x9 a imm)
  | .jnz imm t => (t.resolve program).map fun a => some (seqWord 0xA a imm)
  | .je imm t => (t.resolve program).map fun a => some (seqWord 0xC a imm)
  | .jne imm t => (t.resolve program).map fun a => some (seqWord 0xD a imm)

/-- The words of the lines from address `at_` on, each with its address; none if an operand has no address or a word
stands past the RAM. -/
def assembleFrom (program : List AsmLine) : List AsmLine → Option Nat → Option (List (SeqAddr × SeqWord))
  | [], _ => some []
  | l :: rest, at_ =>
    match l.encodeLine program, assembleFrom program rest (l.next (labelOf program) at_) with
    | some none, some ws => some ws
    | some (some w), some ws =>
      match at_ with
      | some a => if a < seqWords then some ((BitVec.ofNat 9 a, w) :: ws) else none
      | none => none
    | _, _ => none

/-- The words of a program with their addresses (30_encoding.md R149). The first line stands at address 0: DESIGN
CHOICE, R149 does not say (log 15). -/
def assemble (program : List AsmLine) : Option (List (SeqAddr × SeqWord)) := assembleFrom program program (some 0)

/-- The word of an assembled program at an address: 0x00000000 where the program places none (30_encoding.md R149, `.org`);
of two words placed there the later one, DESIGN CHOICE (log 15). -/
def imageWord : List (SeqAddr × SeqWord) → SeqAddr → SeqWord
  | [], _ => 0x00000000#32
  | (b, w) :: ws, a => if a = b ∧ ws.all (fun p => p.1 != a) then w else imageWord ws a

/-- The four SEQRAM writes of one word, low byte first (30_encoding.md R140). -/
def wordAccesses (w : SeqWord) : List Access :=
  [ writeAccess 0x061 (w.extractLsb' 0 8), writeAccess 0x061 (w.extractLsb' 8 8),
    writeAccess 0x061 (w.extractLsb' 16 8), writeAccess 0x061 (w.extractLsb' 24 8) ]

/-- The host accesses that load words at given addresses: LOADRAM set, each word's address and bytes, LOADRAM clear
(70_reset_and_hazards.md R354 step 3, 41_register_ops.md R229). -/
def loadAccesses (ws : List (SeqAddr × SeqWord)) : List Access :=
  writeAccess 0x060 0x01#8 ::
    (ws.flatMap fun p =>
      writeAccess 0x062 (addrLow p.1) :: writeAccess 0x063 (addrHigh p.1) :: wordAccesses p.2) ++
    [writeAccess 0x060 0x00#8]

end Sys2Proof.Machine
end

