-- ==== Sys2Proof/Machine/Notation.lean ====
section
/-! DEFINITION. The text of sequencer programs (30_encoding.md R149, R150) and of host programs (30_encoding.md R150,
95_test_vectors.md): a lexer and a parser, both total, that read text into the data of Machine/Assembler.lean (log 15)
and into the inputs of the block (log 20). -/

namespace Sys2Proof.Machine

/-- A token of a line. -/
inductive AsmToken where
  | word (cs : List Char)
  | colon
  | comma
deriving DecidableEq, Repr

/-- The tokens with the word read so far, reversed, put before them. -/
def flushWord (cur : List Char) (ts : List AsmToken) : List AsmToken :=
  match cur with
  | [] => ts
  | c :: cs => .word (c :: cs).reverse :: ts

/-- The tokens of a line: words, colons and commas; blanks separate, `;` starts a comment (R149). A host-program line is
cut at every `;` before it comes here (`parseHostText`, log 20). -/
def lexLine : List Char → List Char → List AsmToken
  | [], cur => flushWord cur []
  | c :: cs, cur =>
    if c = ';' then flushWord cur []
    else if c = ' ' ∨ c = '\t' ∨ c = '\r' then flushWord cur (lexLine cs [])
    else if c = ':' then flushWord cur (.colon :: lexLine cs [])
    else if c = ',' then flushWord cur (.comma :: lexLine cs [])
    else lexLine cs (c :: cur)

/-- The parts of a text between the occurrences of a character: `cur` is the part read so far, reversed. -/
def splitChars (sep : Char) : List Char → List Char → List (List Char)
  | [], cur => [cur.reverse]
  | c :: cs, cur => if c = sep then cur.reverse :: splitChars sep cs [] else splitChars sep cs (c :: cur)

/-- The lines of a text. -/
def textLines (text : String) : List (List Char) := splitChars '\n' text.toList []

/-! ### Numbers (R149: decimal or `0x` hexadecimal) -/

/-- The value of a digit in base 16. -/
def digitValue (c : Char) : Option Nat :=
  if '0' ≤ c ∧ c ≤ '9' then some (c.toNat - '0'.toNat)
  else if 'a' ≤ c ∧ c ≤ 'f' then some (c.toNat - 'a'.toNat + 10)
  else if 'A' ≤ c ∧ c ≤ 'F' then some (c.toNat - 'A'.toNat + 10)
  else none

/-- The digits of a number in a base, after the value `acc`. -/
def digitsFrom (base : Nat) : List Char → Nat → Option Nat
  | [], acc => some acc
  | c :: cs, acc =>
    match digitValue c with
    | some d => if d < base then digitsFrom base cs (acc * base + d) else none
    | none => none

/-- A number. -/
def parseNumber : List Char → Option Nat
  | '0' :: 'x' :: c :: cs => digitsFrom 16 (c :: cs) 0
  | c :: cs => digitsFrom 10 (c :: cs) 0
  | [] => none

/-- A number below a bound. -/
def parseBelow (bound : Nat) (cs : List Char) : Option Nat :=
  match parseNumber cs with
  | some n => if n < bound then some n else none
  | none => none

/-- An immediate, 0 to 255 (R149). -/
def parseImm (cs : List Char) : Option Byte := (parseBelow 256 cs).map (BitVec.ofNat 8)

/-- Whether a word begins with a digit: it is then no label. R149 does not say which words are: DESIGN CHOICE (log 15). -/
def startsWithDigit : List Char → Bool
  | c :: _ => decide ('0' ≤ c) && decide (c ≤ '9')
  | [] => true

/-- An address operand: a number 0 to 511 or a label (R149). -/
def parseTarget (cs : List Char) : Option AsmTarget :=
  if startsWithDigit cs then (parseBelow seqWords cs).map fun n => .addr (BitVec.ofNat 9 n)
  else some (.label (String.ofList cs))

/-! ### Sequencer programs -/

/-- The table of R149 for the instructions of no operand, with `nop` (R150). -/
def parseBare (m : List Char) : Option AsmLine :=
  if m = ['r', 'e', 't'] then some .ret
  else if m = ['h', 'a', 'l', 't'] then some .halt
  else if m = ['n', 'o', 'p'] then some .nop
  else none

/-- The table of R149 for one operand. -/
def parseUnary (m a : List Char) : Option AsmLine :=
  if m = ['j', 'm', 'p'] then (parseTarget a).map .jmp
  else if m = ['c', 'a', 'l', 'l'] then (parseTarget a).map .call
  else if m = ['.', 'w', 'o', 'r', 'd'] then (parseBelow (2 ^ 32) a).map fun n => .word (BitVec.ofNat 32 n)
  else if m = ['.', 'o', 'r', 'g'] then (parseTarget a).map .org
  else none

/-- The table of R149 for an immediate and an address. -/
def parseBinary (m i a : List Char) : Option AsmLine :=
  match parseImm i, parseTarget a with
  | some imm, some t =>
    if m = ['j', 'z'] then some (.jz imm t)
    else if m = ['j', 'n', 'z'] then some (.jnz imm t)
    else if m = ['j', 'e'] then some (.je imm t)
    else if m = ['j', 'n', 'e'] then some (.jne imm t)
    else none
  | _, _ => none

/-- At most one instruction. -/
def parseInstr : List AsmToken → Option (List AsmLine)
  | [] => some []
  | [.word m] => (parseBare m).map fun l => [l]
  | [.word m, .word a] => (parseUnary m a).map fun l => [l]
  | [.word m, .word i, .comma, .word a] => (parseBinary m i a).map fun l => [l]
  | _ => none

/-- One line: an optional label, then at most one instruction (R149). -/
def parseLine : List AsmToken → Option (List AsmLine)
  | .word n :: .colon :: rest =>
    if startsWithDigit n then none
    else (parseInstr rest).map fun ls => .label (String.ofList n) :: ls
  | ts => parseInstr ts

/-- The lines of a program; none if one of them is no line of R149. -/
def parseLines : List (List Char) → Option (List AsmLine)
  | [] => some []
  | l :: ls =>
    match parseLine (lexLine l []), parseLines ls with
    | some xs, some ys => some (xs ++ ys)
    | _, _ => none

/-- The lines of a program text (R149). -/
def parseProgram (text : String) : Option (List AsmLine) := parseLines (textLines text)

/-- The words of a program text with their addresses (R149). -/
def assembleText (text : String) : Option (List (SeqAddr × SeqWord)) := (parseProgram text).bind assemble

/-! ### Host programs (R150; the forms R150 does not give are those of 95_test_vectors.md section 3, log 20) -/

/-- One access or event of a host program: an input of the block, with the read value the line gives (R150; the
events by the names of 95_test_vectors.md). -/
structure HostLine where
  input : Input
  expected : Option (List Byte)
deriving DecidableEq, Repr

/-- The bytes of a value read by an access of a size, byte 0 the least significant. -/
def valueBytes (size n : Nat) : List Byte := (List.range size).map fun k => BitVec.ofNat 8 (n >>> (8 * k))

/-- `W`, `W2`, `W4`: the access of that size that writes a value. -/
def hostWrite (size : Nat) (o v : List Char) : Option HostLine :=
  match parseNumber o, parseBelow (256 ^ size) v with
  | some offset, some n =>
    some { input := .access { dir := .write, offset := offset, size := size, wdata := BitVec.ofNat 32 n },
           expected := none }
  | _, _ => none

/-- `R`, `R2`, `R4`: the access of that size that reads, and the value the line gives. -/
def hostRead (size : Nat) (o v : List Char) : Option HostLine :=
  match parseNumber o, parseBelow (256 ^ size) v with
  | some offset, some n =>
    some { input := .access { dir := .read, offset := offset, size := size, wdata := 0 },
           expected := some (valueBytes size n) }
  | _, _ => none

/-- The values of a write: one, several between commas, or the last of them repeated by `×n`. The last two forms stand
in 95_test_vectors.md section 3 and not in R150: DESIGN CHOICE (log 20). -/
def hostValues : List AsmToken → Option (List (List Char))
  | [.word v] => some [v]
  | [.word v, .word ('×' :: n)] => (parseNumber n).map fun k => List.replicate k v
  | .word v :: .comma :: rest => (hostValues rest).map fun vs => v :: vs
  | _ => none

/-- One write for each value, in order, all at one offset. -/
def hostWrites (size : Nat) (o : List Char) : List (List Char) → Option (List HostLine)
  | [] => some []
  | v :: vs =>
    match hostWrite size o v, hostWrites size o vs with
    | some x, some xs => some (x :: xs)
    | _, _ => none

/-- The size a letter-and-digit mnemonic names: none after `W` or `R` is 1. -/
def hostSize : List Char → Option Nat
  | [] => some 1
  | ['2'] => some 2
  | ['4'] => some 4
  | _ => none

/-- What stands between two semicolons of a host-program line (R150). -/
def parseHostLine : List AsmToken → Option (List HostLine)
  | [.word m] =>
    if m = "reset".toList then some [{ input := .reset, expected := none }]
    else if m = "ext_scsi_int".toList then some [{ input := .extScsiInt, expected := none }]
    else if m = "ext_parity_err".toList then some [{ input := .extParityErr, expected := none }]
    else none
  | [.word ('R' :: s), .word o, .word ['-', '>'], .word v] =>
    (hostSize s).bind fun n => (hostRead n o v).map fun x => [x]
  | .word ('W' :: s) :: .word o :: vs =>
    (hostSize s).bind fun n => (hostValues vs).bind (hostWrites n o)
  | _ => none

/-- The parts of a line after its first `;`: accesses as long as each part reads as one, the first part that does not
begins the comment. R150 gives `;` no meaning in a host program and 95_test_vectors.md section 3 uses it both ways:
DESIGN CHOICE (log 20). -/
def parseHostParts : List (List Char) → List HostLine
  | [] => []
  | p :: ps =>
    match parseHostLine (lexLine p []) with
    | some xs => xs ++ parseHostParts ps
    | none => []

/-- One line of a host program: what stands before its first `;` is an access or nothing; after nothing all is a
comment (log 20). -/
def parseHostText (line : List Char) : Option (List HostLine) :=
  match splitChars ';' line [] with
  | [] => some []
  | p :: ps =>
    match lexLine p [] with
    | [] => some []
    | t :: ts => (parseHostLine (t :: ts)).map fun xs => xs ++ parseHostParts ps

/-- The accesses and events of the lines of a host program. -/
def parseHostLines : List (List Char) → Option (List HostLine)
  | [] => some []
  | l :: ls =>
    match parseHostText l, parseHostLines ls with
    | some xs, some ys => some (xs ++ ys)
    | _, _ => none

/-- The accesses and events of a host program text (R150). -/
def parseHostProgram (text : String) : Option (List HostLine) := parseHostLines (textLines text)

end Sys2Proof.Machine
end

