-- ==== Sys2Proof/Machine/Ring.lean ====
section
/-! DEFINITION. The ring-buffer implementation of one FIFO (42_queue_ops.md R274): a buffer, the index of the oldest
entry, and an explicit count. The machine's state holds the FIFO as its sequence of entries (10_state.md R29), which
R274 allows; this file says what the ring is, and `Ring.contents` which sequence it stands for (log 14). -/

namespace Sys2Proof.Machine

/-- `buf[0..QDEPTH-1]`, `head`, `count`. -/
structure Ring where
  buf : List Byte
  head : Nat
  count : Nat
deriving DecidableEq, Repr

/-- The ring after reset: `head` = 0, `count` = 0, for a capacity `depth`. -/
def Ring.reset (depth : Nat) : Ring := { buf := List.replicate depth 0x00#8, head := 0, count := 0 }

/-- What the implementation keeps: `depth` buffer bytes, `head` an index of them, at most `depth` live entries. -/
def Ring.wf (depth : Nat) (r : Ring) : Bool :=
  r.buf.length == depth && decide (r.head < depth) && decide (r.count ≤ depth)

/-- Empty is `count = 0`; head and tail equality is never used. -/
def Ring.isEmpty (r : Ring) : Bool := r.count == 0

/-- Full is `count = QDEPTH`. -/
def Ring.isFull (depth : Nat) (r : Ring) : Bool := r.count == depth

/-- Entry `k` of the ring, the oldest being entry 0. -/
def Ring.entry (depth : Nat) (r : Ring) (k : Nat) : Byte := r.buf.getD ((r.head + k) % depth) 0x00#8

/-- The sequence of live entries, oldest first. -/
def Ring.contents (depth : Nat) (r : Ring) : List Byte := (List.range r.count).map (r.entry depth)

/-- `push_back(v)`. -/
def Ring.push (depth : Nat) (r : Ring) (v : Byte) : Ring :=
  { r with buf := r.buf.set ((r.head + r.count) % depth) v, count := r.count + 1 }

/-- `pop_front()`. -/
def Ring.pop (depth : Nat) (r : Ring) : Byte × Ring :=
  (r.entry depth 0, { r with head := (r.head + 1) % depth, count := r.count - 1 })

end Sys2Proof.Machine
end

