-- ==== Sys2Proof/Safety.lean ====
section
/-! DEFINITION. The terms the claims are stated in: the invariants of 10_state.md R53, what an engine step may change,
the order of the SCBs, and which inputs reset the block or load its RAM. -/

namespace Sys2Proof

/-- The input performs the reset operation: the `reset` input or a CHIPRST write (70_reset_and_hazards.md R350). -/
def Input.resets : Input → Bool
  | .reset => true
  | .access a =>
    match decodeAccess a with
    | .instr (.hcntrlW v) => v[0]
    | _ => false
  | .extScsiInt => false
  | .extParityErr => false

/-- The input is a write of the RAM-data register (41_register_ops.md R226). -/
def Input.writesSeqram : Input → Bool
  | .access a =>
    match decodeAccess a with
    | .instr (.seqramW _) => true
    | _ => false
  | .reset => false
  | .extScsiInt => false
  | .extParityErr => false

/-- The input is an accepted QINFIFO write, with the index it submits (42_queue_ops.md R261). -/
def Input.submits : Input → Option Byte
  | .access a =>
    match decodeAccess a with
    | .instr (.qinfifoW v) => some v
    | _ => none
  | .reset => none
  | .extScsiInt => none
  | .extParityErr => none

/-- The input is a QOUTFIFO read (42_queue_ops.md R264). -/
def Input.drains : Input → Bool
  | .access a =>
    match decodeAccess a with
    | .instr .qoutfifoR => true
    | _ => false
  | .reset => false
  | .extScsiInt => false
  | .extParityErr => false

end Sys2Proof

namespace Sys2Proof.Machine

/-- The trace of `irq_edge`, newest first, fits the level of the line: notifications alternate, the oldest is 1, the
newest is the level now (60_exceptions.md R325 a). -/
def EdgesFit : List Bool → Bool → Bool
  | [], level => !level
  | e :: es, level => e == level && EdgesFit es (!level)

/-- The invariants of the state that hold after every step (10_state.md R53 b, c, d; `0 ≤ sp ≤ 4` is the type of `sp`),
with the bits that are never stored (10_state.md R40, R43, R45), the canonical form of the two stores (log 7), the
bounds of `QDEPTH` (00_scope.md R9) and the edge trace (60_exceptions.md R325). -/
structure State.Inv (s : State) : Prop where
  qdepth : s.cfg.wf = true
  qin : s.qin.length ≤ s.cfg.qdepth
  qout : s.qout.length ≤ s.cfg.qdepth
  line : s.irqLine = s.lineValue
  error : s.error.any = true → s.halted = true
  edges : EdgesFit s.edges s.irqLine = true
  seqctl : s.regs.seqctl[1] = false
  hcntrl : s.regs.hcntrl[0] = false
  brkaddr1 : s.regs.brkaddr1 &&& 0x7E#8 = 0x00#8
  ramForm : Memory.wf s.ram = true
  ramBound : Memory.below ramBytes s.ram = true
  scbForm : Memory.wf s.scb = true
  scbBound : Memory.below scbBytes s.scb = true

/-- What no engine step changes (40_sequencer.md R189): the data registers, the RAM and its loader, every stored register
but the PAUSE bit of HCNTRL, the two causes of the outside, every SCB byte but SCB_STATUS of the SCB it
completes; and the model's own fields but the trace. -/
structure EngineKeeps (s t : State) : Prop where
  accum : t.accum = s.accum
  sindex : t.sindex = s.sindex
  dindex : t.dindex = s.dindex
  ram : t.ram = s.ram
  loadAddr : t.loadAddr = s.loadAddr
  loadLane : t.loadLane = s.loadLane
  regs : t.regs = { s.regs with hcntrl := t.regs.hcntrl }
  hcntrl : t.regs.hcntrl = s.regs.hcntrl ∨ t.regs.hcntrl = s.regs.hcntrl ||| 0x04#8
  scsiint : t.pending.scsiint = s.pending.scsiint
  parerrint : t.pending.parerrint = s.pending.parerrint
  scb : ∀ a, (∀ i, s.active = some i → s.phase = .msgIn → a ≠ scbAddr i 3) →
    Memory.read t.scb a = Memory.read s.scb a
  cfg : t.cfg = s.cfg
  inputs : t.inputs = s.inputs
  rdata : t.rdata = s.rdata

/-- The answer `r` of an instruction executed in `s` is a next state that is the retirement (40_sequencer.md R179) of
`s` with `pc` at `target`, and the call stack and all that an engine step keeps are kept. -/
def RetiresTo (s : State) (target : SeqAddr) (r : Result) : Prop :=
  ∃ t, r = .next t ∧ retire { s with pc := target } = .next t ∧ t.pc = target ∧ t.stack = s.stack ∧
    t.sp = s.sp ∧ EngineKeeps s t

/-- The unknown offsets of the region, the list of 10_state.md R51. -/
def UnknownOffset (o : Nat) : Prop :=
  (0x00D ≤ o ∧ o ≤ 0x00F) ∨ (0x012 ≤ o ∧ o ≤ 0x017) ∨ o = 0x019 ∨ o = 0x01C ∨ (0x01E ≤ o ∧ o ≤ 0x05F) ∨
    (0x069 ≤ o ∧ o ≤ 0x06E) ∨ (0x070 ≤ o ∧ o ≤ 0x085) ∨ (0x088 ≤ o ∧ o ≤ 0x08F) ∨
    (0x093 ≤ o ∧ o ≤ 0x09A) ∨ o = 0x09F

/-- The SCBs the block holds, in the order they leave it: completed, in flight, queued (42_queue_ops.md R269). -/
def State.pipeline (s : State) : List Byte := s.qout ++ s.active.toList ++ s.qin

/-- The offset of a plain register, as 41_register_ops.md R211 lists them. -/
def PlainReg.offset : PlainReg → Nat
  | .scsiseq => 0x000
  | .sxfrctl0 => 0x001
  | .sxfrctl1 => 0x002
  | .scsirate => 0x004
  | .scsiid => 0x005
  | .scsidatl => 0x006
  | .scsidath => 0x007
  | .stcnt0 => 0x008
  | .stcnt1 => 0x009
  | .stcnt2 => 0x00A
  | .simode1 => 0x011
  | .seltimer => 0x018
  | .scamctl => 0x01A
  | .spiocap => 0x01B
  | .bedctl => 0x01D
  | .dspcistatus => 0x086
  | .brkaddr0 => 0x067
  | .scbptr => 0x090

/-- The read operation of a plain register (41_register_ops.md R211). -/
def PlainReg.readInstr : PlainReg → Instr
  | .scsiseq => .scsiseqR
  | .sxfrctl0 => .sxfrctl0R
  | .sxfrctl1 => .sxfrctl1R
  | .scsirate => .scsirateR
  | .scsiid => .scsiidR
  | .scsidatl => .scsidatlR
  | .scsidath => .scsidathR
  | .stcnt0 => .stcnt0R
  | .stcnt1 => .stcnt1R
  | .stcnt2 => .stcnt2R
  | .simode1 => .simode1R
  | .seltimer => .seltimerR
  | .scamctl => .scamctlR
  | .spiocap => .spiocapR
  | .bedctl => .bedctlR
  | .dspcistatus => .dspcistatusR
  | .brkaddr0 => .brkaddr0R
  | .scbptr => .scbptrR

/-- The write operation of a plain register (41_register_ops.md R211). -/
def PlainReg.writeInstr (v : Byte) : PlainReg → Instr
  | .scsiseq => .scsiseqW v
  | .sxfrctl0 => .sxfrctl0W v
  | .sxfrctl1 => .sxfrctl1W v
  | .scsirate => .scsirateW v
  | .scsiid => .scsiidW v
  | .scsidatl => .scsidatlW v
  | .scsidath => .scsidathW v
  | .stcnt0 => .stcnt0W v
  | .stcnt1 => .stcnt1W v
  | .stcnt2 => .stcnt2W v
  | .simode1 => .simode1W v
  | .seltimer => .seltimerW v
  | .scamctl => .scamctlW v
  | .spiocap => .spiocapW v
  | .bedctl => .bedctlW v
  | .dspcistatus => .dspcistatusW v
  | .brkaddr0 => .brkaddr0W v
  | .scbptr => .scbptrW v

end Sys2Proof.Machine
end

