-- ==== Sys2Proof/Certificates/Slice0/Obligations.lean ====
section
/-! DEFINITION. The statements for the provers. -/

open Sys2Proof Sys2Proof.Machine

/-! ### Encoding -/

/-- Words and accesses written out from the encodings of 30_encoding.md (section 2, section 3) decode to what they
stand for: one word of each sequencer instruction, one malformed word, and accesses of each register family. -/
def Obligations.DecodeSampleCodes : Prop :=
  decodeWord 0x12345678#32 = .instr (.opaqueWord 0x12345678#32) ∧
  decodeWord 0x8001FF00#32 = .instr (.jmp 0x1FF#9) ∧
  decodeWord 0x9000100F#32 = .instr (.jz 0x0F#8 0x010#9) ∧
  decodeWord 0xA0000301#32 = .instr (.jnz 0x01#8 0x003#9) ∧
  decodeWord 0xB0010000#32 = .instr (.call 0x100#9) ∧
  decodeWord 0xC0000703#32 = .instr (.je 0x03#8 0x007#9) ∧
  decodeWord 0xD00002FF#32 = .instr (.jne 0xFF#8 0x002#9) ∧
  decodeWord 0xE0000000#32 = .instr .ret ∧
  decodeWord 0xF0000000#32 = .instr .halt ∧
  decodeWord 0x80000001#32 = .reject .malformed ∧
  decodeAccess { dir := .write, offset := 0x01A, size := 1, wdata := 0x5A#32 } = .instr (.scamctlW 0x5A#8) ∧
  decodeAccess { dir := .read, offset := 0x003, size := 1, wdata := 0#32 } = .instr .scsisigiR ∧
  decodeAccess { dir := .write, offset := 0x003, size := 1, wdata := 0x46#32 } = .instr (.scsisigoW 0x46#8) ∧
  decodeAccess { dir := .write, offset := 0x061, size := 1, wdata := 0xF0#32 } = .instr (.seqramW 0xF0#8) ∧
  decodeAccess { dir := .write, offset := 0x087, size := 1, wdata := 0x02#32 } = .instr (.hcntrlW 0x02#8) ∧
  decodeAccess { dir := .read, offset := 0x092, size := 1, wdata := 0#32 } = .instr .errorR ∧
  decodeAccess { dir := .write, offset := 0x092, size := 1, wdata := 0x08#32 } = .instr (.clrintW 0x08#8) ∧
  decodeAccess { dir := .read, offset := 0x09D, size := 1, wdata := 0#32 } = .instr .qoutfifoR ∧
  decodeAccess { dir := .write, offset := 0x0BF, size := 1, wdata := 0x77#32 } = .instr (.scbwinW 31#5 0x77#8)

/-- Decode and encode agree for every well-formed instruction, at every value of every operand (30_encoding.md R146,
R148). -/
def Obligations.DecodeEncodeRoundTrip : Prop :=
  ∀ i : Instr, i.wf = true → decode (encode i) = .instr i

/-- No bit of a sequencer word is dropped: a word that decodes to an instruction is the code of that instruction,
which is well formed. -/
def Obligations.DecodedWordReencodes : Prop :=
  ∀ (w : SeqWord) (i : Instr), decodeWord w = .instr i → i.wf = true ∧ encode i = .word w

/-- The words that are no instruction are exactly the malformed ones of 30_encoding.md R145, and no other reason
rejects a word. -/
def Obligations.MalformedWordsExactly : Prop :=
  ∀ w : SeqWord,
    ((∃ r, decodeWord w = .reject r) ↔
      w[31] = true ∧
        (rsvField w ≠ 0#11 ∨
         ((opField w = 0x8#4 ∨ opField w = 0xB#4) ∧ immField w ≠ 0#8) ∨
         ((opField w = 0xE#4 ∨ opField w = 0xF#4) ∧ (addrField w ≠ 0#9 ∨ immField w ≠ 0#8)))) ∧
    (∀ r, decodeWord w = .reject r → r = .malformed)

/-- The direction, the offset, the size and the byte written survive the decoding of an access: the operation decoded
is the one at that offset and direction. -/
def Obligations.DecodedAccessReencodes : Prop :=
  ∀ (a : Access) (i : Instr), decodeAccess a = .instr i →
    ∃ b, encode i = .access b ∧ b.dir = a.dir ∧ b.offset = a.offset ∧ b.size = a.size ∧
      (a.dir = .write → b.byte = a.byte)

/-- An accepted access is an operation of the opcode table exactly when its offset is not in the list of unknown
offsets of 10_state.md R51. -/
def Obligations.UnknownOffsetsExactly : Prop :=
  ∀ a : Access, a.size = 1 → a.offset < 0x0C0 →
    (UnknownOffset a.offset →
      decodeAccess a = .reject (match a.dir with | .read => .unknownRead | .write => .unknownWrite)) ∧
    (¬ UnknownOffset a.offset → ∃ i, decodeAccess a = .instr i)

/-! ### The step -/

/-- When the engine can step (40_sequencer.md R171): not Halted, not paused, not loading, an SCB in flight or queued, and
not stalled at the completion of the SCB in flight by a full output FIFO; an engine that only the stall stops is in
mode Running. -/
def Obligations.CanStepExactly : Prop :=
  ∀ s : State,
    (s.canStep = true ↔
      s.halted = false ∧ s.regs.hcntrl[2] = false ∧ s.regs.seqctl[0] = false ∧ (s.active ≠ none ∨ s.qin ≠ []) ∧
        ¬ (s.active ≠ none ∧ s.phase = .msgIn ∧ s.qout.length = s.cfg.qdepth)) ∧
    (s.halted = false → s.regs.hcntrl[2] = false → s.regs.seqctl[0] = false → s.active ≠ none → s.phase = .msgIn →
      s.qout.length = s.cfg.qdepth → s.mode = .running)

/-- While the engine can step and the breakpoint is disabled or at another address, a step runs the instruction the word
at `pc` decodes to (40_sequencer.md R173, 60_exceptions.md R314). -/
def Obligations.StepRunsDecodedWord : Prop :=
  ∀ (s : State) (i : Instr), s.canStep = true →
    (s.regs.brkaddr1[7] = true ∨ s.pc ≠ BitVec.ofBool s.regs.brkaddr1[0] ++ s.regs.brkaddr0) →
    decodeWord (ramWord s.ram s.pc) = .instr i → step s = exec i s

/-- While the engine cannot step, a step accepts the next access: it takes it off the inputs and runs the operation it
decodes to (20_memory.md R104 step 2). -/
def Obligations.StepRunsDecodedAccess : Prop :=
  ∀ (s : State) (a : Access) (rest : List Input) (i : Instr), s.canStep = false →
    s.inputs = .access a :: rest → decodeAccess a = .instr i →
    step s = exec i { s with inputs := rest }

/-- With the breakpoint disabled or at another address, a malformed word raises ILLOPCODE: the ERROR bit, Halted and BRKADRINT, with `pc` and all else but the line
unchanged (40_sequencer.md R173 step 3, 60_exceptions.md R311). -/
def Obligations.StepMalformedWordFaults : Prop :=
  ∀ (s : State) (r : Reject), s.canStep = true →
    (s.regs.brkaddr1[7] = true ∨ s.pc ≠ BitVec.ofBool s.regs.brkaddr1[0] ++ s.regs.brkaddr0) →
    decodeWord (ramWord s.ram s.pc) = .reject r →
    step s = .next (updateLine { s with
      error := { s.error with illopcode := true }, halted := true,
      pending := { s.pending with brkadrint := true } })

/-- A breakpoint halts the engine before the fetch: no ERROR bit, `pc` kept, whatever the word at `pc` is
(60_exceptions.md R314, R316). -/
def Obligations.StepBreakpointHalts : Prop :=
  ∀ s : State, s.canStep = true → s.regs.brkaddr1[7] = false →
    s.pc = BitVec.ofBool s.regs.brkaddr1[0] ++ s.regs.brkaddr0 →
    step s = .next (updateLine { s with halted := true, pending := { s.pending with brkadrint := true } })

/-- An access of another size than 1, or at or beyond the end of the region, is absorbed: a read returns 0xFF in every
byte, nothing else changes (20_memory.md R105). -/
def Obligations.StepAbsorbsUnacceptedAccess : Prop :=
  ∀ (s : State) (a : Access) (rest : List Input), s.canStep = false → s.inputs = .access a :: rest →
    (a.size ≠ 1 ∨ 0x0C0 ≤ a.offset) →
    step s = .next { s with
      inputs := rest
      rdata := match a.dir with | .read => List.replicate a.size 0xFF#8 | .write => s.rdata }

/-- An access to an unknown offset: a read returns 0xFF, a write is ignored (41_register_ops.md R212). -/
def Obligations.StepUnknownOffsetReadsOnes : Prop :=
  ∀ (s : State) (a : Access) (rest : List Input), s.canStep = false → s.inputs = .access a :: rest →
    a.size = 1 → UnknownOffset a.offset →
    step s = .next { s with
      inputs := rest
      rdata := match a.dir with | .read => [0xFF#8] | .write => s.rdata }

/-- The two event inputs raise their cause and change nothing else but the line (60_exceptions.md R323). -/
def Obligations.StepTakesExternalEvents : Prop :=
  ∀ (s : State) (rest : List Input), s.canStep = false →
    (s.inputs = .extScsiInt :: rest →
      step s = .next (updateLine { s with inputs := rest, pending := { s.pending with scsiint := true } })) ∧
    (s.inputs = .extParityErr :: rest →
      step s = .next (updateLine { s with inputs := rest, pending := { s.pending with parerrint := true } }))

/-- The machine never stops: every state has a next state (70_reset_and_hazards.md R373, 60_exceptions.md R310). With
the engine unable to step and no input to come it is the same state: the model's choice (log 2). -/
def Obligations.StepAlwaysAnswersNext : Prop :=
  ∀ s : State, (∃ t, step s = .next t) ∧ (s.canStep = false → s.inputs = [] → step s = .next s)

/-! ### Sequencer instructions -/

/-- OPAQUE retires to the next address whatever its word is, JMP to its operand, and the four conditional branches to
their operand if their condition on `accum` holds, to the next address otherwise (40_sequencer.md R180 to R183, R185,
R186). -/
def Obligations.OpaqueAndBranchesRetire : Prop :=
  ∀ (s : State) (w : SeqWord) (imm : Byte) (addr : SeqAddr), s.canStep = true →
    RetiresTo s (s.pc + 1) (exec (.opaqueWord w) s) ∧
    RetiresTo s addr (exec (.jmp addr) s) ∧
    RetiresTo s (if s.accum &&& imm = 0#8 then addr else s.pc + 1) (exec (.jz imm addr) s) ∧
    RetiresTo s (if s.accum &&& imm ≠ 0#8 then addr else s.pc + 1) (exec (.jnz imm addr) s) ∧
    RetiresTo s (if s.accum = imm then addr else s.pc + 1) (exec (.je imm addr) s) ∧
    RetiresTo s (if s.accum ≠ imm then addr else s.pc + 1) (exec (.jne imm addr) s)

/-- CALL with room on the stack pushes the next address, goes to its operand and retires, the other entries keeping
their values; with four return addresses stacked it faults STKOVF, with nothing pushed, `pc` kept and no progress made
(40_sequencer.md R184, 60_exceptions.md R311). -/
def Obligations.CallPushesOrOverflows : Prop :=
  ∀ (s : State) (addr : SeqAddr),
    (∀ h : s.sp.val < 4, s.canStep = true →
      ∃ t, exec (.call addr) s = .next t ∧ t.pc = addr ∧ t.sp.val = s.sp.val + 1 ∧
        t.stack = s.stack.set s.sp.val (s.pc + 1) h ∧
        retire { s with pc := addr, stack := t.stack, sp := t.sp } = .next t ∧ EngineKeeps s t) ∧
    (s.sp.val = 4 →
      exec (.call addr) s = .next (updateLine { s with
        error := { s.error with stkovf := true }, halted := true,
        pending := { s.pending with brkadrint := true } }))

/-- RET with an entry on the stack pops it into `pc` and retires, the entries keeping their values; on an empty stack it
faults STKUNF, with `pc` and `sp` kept and no progress made (40_sequencer.md R187). -/
def Obligations.RetPopsOrUnderflows : Prop :=
  ∀ s : State,
    (∀ _h : 0 < s.sp.val, s.canStep = true →
      ∃ t, exec .ret s = .next t ∧ t.pc = s.stack[s.sp.val - 1]'(by have := s.sp.isLt; omega) ∧
        t.sp.val = s.sp.val - 1 ∧ t.stack = s.stack ∧
        retire { s with pc := t.pc, sp := t.sp } = .next t ∧ EngineKeeps s t) ∧
    (s.sp.val = 0 →
      exec .ret s = .next (updateLine { s with
        error := { s.error with stkunf := true }, halted := true,
        pending := { s.pending with brkadrint := true } }))

/-- HALT advances `pc`, enters Halted and raises BRKADRINT, with no ERROR bit and no progress (40_sequencer.md R188). -/
def Obligations.HaltEntersHalted : Prop :=
  ∀ s : State, exec .halt s = .next (updateLine { s with
    pc := s.pc + 1, halted := true, pending := { s.pending with brkadrint := true } })

/-! ### Retirement: the progress action and single step -/

/-- A retirement with nothing in flight takes the oldest entry of the input FIFO. From BusFree, and from Arbitration
(where the request is a no-op), it goes on in Arbitration, and in single-step mode pauses. From any other phase the
SCB is taken and is in flight, BusFree is forced and the engine faults ILLPHASE; a halting step does not set PAUSE
(43_phase_ops.md R296, 40_sequencer.md R174). -/
def Obligations.RetireDequeuesOldestScb : Prop :=
  ∀ (s : State) (i : Byte) (rest : List Byte), s.active = none → s.qin = i :: rest →
    (s.halted = false → (s.phase = .busFree ∨ s.phase = .arbitration) →
      retire s = .next { s with
        qin := rest
        active := some i
        phase := .arbitration
        sstat0 := { s.sstat0 with phasechg := s.sstat0.phasechg || s.phase == .busFree }
        regs := { s.regs with
          hcntrl := if s.regs.seqctl[2] then s.regs.hcntrl ||| 0x04#8 else s.regs.hcntrl } }) ∧
    (s.phase ≠ .busFree → s.phase ≠ .arbitration →
      retire s = .next (updateLine { s with
        qin := rest
        active := some i
        phase := .busFree
        sstat0 := { s.sstat0 with phasechg := true, busfree := true, phasemis := true }
        error := { s.error with illphase := true }
        halted := true
        pending := { s.pending with brkadrint := true } }))

/-- The engine's path (43_phase_ops.md R295), the count and the direction read from the slot's bytes. -/
def Obligations.EnginePathOfPhases : Prop :=
  ∀ (m : Memory) (i : Byte),
    nextPhase m i .busFree = .arbitration ∧
    nextPhase m i .arbitration = .selection ∧
    nextPhase m i .selection = .command ∧
    (∀ p, p = .command ∨ p = .msgOut →
      nextPhase m i p =
        if scbByte m i 8 = 0#8 ∧ scbByte m i 9 = 0#8 ∧ scbByte m i 10 = 0#8 ∧ scbByte m i 11 = 0#8 then .status
        else if (scbByte m i 0)[0] then .dataIn else .dataOut) ∧
    nextPhase m i .dataIn = .status ∧
    nextPhase m i .dataOut = .status ∧
    nextPhase m i .status = .msgIn ∧
    nextPhase m i .msgIn = .busFree ∧
    (∀ p, legal p (nextPhase m i p) = true)

/-- A retirement with an SCB in flight in a phase other than MsgIn moves it one phase along the engine's path, never
faulting; in single-step mode it then pauses (43_phase_ops.md R295, R296, 40_sequencer.md R174). -/
def Obligations.RetireAdvancesPhase : Prop :=
  ∀ (s : State) (i : Byte), s.halted = false → s.active = some i → s.phase ≠ .msgIn →
    retire s = .next { s with
      phase := nextPhase s.scb i s.phase
      sstat0 := { s.sstat0 with phasechg := true }
      regs := { s.regs with
        hcntrl := if s.regs.seqctl[2] then s.regs.hcntrl ||| 0x04#8 else s.regs.hcntrl } }

/-- A retirement in MsgIn with room in the output FIFO completes the SCB in flight: status 0x00 in its slot and no
other byte changed, its index pushed, nothing in flight, BusFree, CMDCMPLT raised (43_phase_ops.md R297). -/
def Obligations.RetireCompletesScb : Prop :=
  ∀ (s : State) (i : Byte), s.halted = false → s.active = some i → s.phase = .msgIn →
    s.qout.length ≠ s.cfg.qdepth →
    ∃ t, retire s = .next t ∧
      (∀ a, Memory.read t.scb a = if a = scbAddr i 3 then 0x00#8 else Memory.read s.scb a) ∧
      t.qout = s.qout ++ [i] ∧ t.qin = s.qin ∧ t.active = none ∧ t.phase = .busFree ∧
      t.sstat0 = { s.sstat0 with phasechg := true, busfree := true } ∧
      t.pending = { s.pending with cmdcmplt := true } ∧
      t.irqLine = t.lineValue ∧
      t.edges = (if t.irqLine = s.irqLine then s.edges else t.irqLine :: s.edges) ∧
      t.halted = false ∧ t.error = s.error ∧ t.pc = s.pc ∧ t.stack = s.stack ∧ t.sp = s.sp ∧
      t.regs.hcntrl = (if s.regs.seqctl[2] then s.regs.hcntrl ||| 0x04#8 else s.regs.hcntrl) ∧
      EngineKeeps s t

/-- No engine step changes the data registers, the RAM and its loader, a stored register other than PAUSE, the causes
of the outside, or an SCB byte other than the status of the SCB it completes (40_sequencer.md R189). -/
def Obligations.EngineStepKeepsHostState : Prop :=
  ∀ s t : State, s.canStep = true → step s = .next t → EngineKeeps s t

/-! ### Taking an exception -/

/-- `SeqFault(f)` sets the fault's ERROR bit (others stay), Halted and BRKADRINT, and changes nothing else but the
line (60_exceptions.md R312). -/
def Obligations.SeqFaultRecordsAndHalts : Prop :=
  ∀ (s : State) (f : SeqError),
    seqFault f s = updateLine { s with
      error := { illphase := s.error.illphase || f == .illphase
                 stkovf := s.error.stkovf || f == .stkovf
                 illopcode := s.error.illopcode || f == .illopcode
                 stkunf := s.error.stkunf || f == .stkunf }
      halted := true
      pending := { s.pending with brkadrint := true } }

/-- The line's value is INTEN and some cause pending and enabled at its bit of SIMODE0; `UpdateLine()` gives the line
that value and notifies a change exactly once (60_exceptions.md R320, R321). -/
def Obligations.LineFollowsEnabledCauses : Prop :=
  ∀ s : State,
    (s.lineValue = true ↔
      s.regs.hcntrl[1] = true ∧
        ((s.pending.cmdcmplt = true ∧ s.regs.simode0[1] = true) ∨
         (s.pending.scsiint = true ∧ s.regs.simode0[2] = true) ∨
         (s.pending.brkadrint = true ∧ s.regs.simode0[3] = true) ∨
         (s.pending.parerrint = true ∧ s.regs.simode0[4] = true))) ∧
    updateLine s = { s with
      irqLine := s.lineValue
      edges := if s.lineValue = s.irqLine then s.edges else s.lineValue :: s.edges }

/-! ### Host register operations -/

/-- The reads of the eighteen plain registers (SCSISEQ, SXFRCTL0, SXFRCTL1, SCSIRATE, SCSIID, SCSIDATL, SCSIDATH,
STCNT0, STCNT1, STCNT2, SIMODE1, SELTIMER, SCAMCTL, SPIOCAP, BEDCTL, DSPCISTATUS, BRKADDR0, SCBPTR), each at its offset,
return the stored byte; the writes store it; nothing else changes (41_register_ops.md R211). -/
def Obligations.PlainRegistersReadAndStore : Prop :=
  ∀ (s : State) (r : PlainReg) (v : Byte),
    encode r.readInstr = .access (readAccess r.offset) ∧
    encode (r.writeInstr v) = .access (writeAccess r.offset v) ∧
    exec r.readInstr s = .next { s with rdata := [s.regs.get r] } ∧
    exec (r.writeInstr v) s = .next { s with regs := s.regs.set r v } ∧
    (s.regs.set r v).get r = v ∧
    (∀ q, q ≠ r → (s.regs.set r v).get q = s.regs.get q) ∧
    (s.regs.set r v).simode0 = s.regs.simode0 ∧ (s.regs.set r v).seqctl = s.regs.seqctl ∧
    (s.regs.set r v).brkaddr1 = s.regs.brkaddr1 ∧ (s.regs.set r v).hcntrl = s.regs.hcntrl

/-- Writes to RO and RC registers are ignored; reads of the WO registers return 0x00 and change nothing else
(41_register_ops.md R213, R227; 42_queue_ops.md R262, R266). -/
def Obligations.WrongDirectionAccesses : Prop :=
  ∀ (s : State) (v : Byte),
    encode (.sstat0W v) = .access (writeAccess 0x00B v) ∧
    encode (.sstat1W v) = .access (writeAccess 0x00C v) ∧
    encode (.stackW v) = .access (writeAccess 0x06F v) ∧
    encode (.intstatW v) = .access (writeAccess 0x091 v) ∧
    encode (.qincntW v) = .access (writeAccess 0x09C v) ∧
    encode (.qoutfifoW v) = .access (writeAccess 0x09D v) ∧
    encode (.qoutcntW v) = .access (writeAccess 0x09E v) ∧
    encode .seqramR = .access (readAccess 0x061) ∧
    encode .qinfifoR = .access (readAccess 0x09B) ∧
    exec (.sstat0W v) s = .next s ∧ exec (.sstat1W v) s = .next s ∧ exec (.stackW v) s = .next s ∧
    exec (.intstatW v) s = .next s ∧ exec (.qincntW v) s = .next s ∧ exec (.qoutfifoW v) s = .next s ∧
    exec (.qoutcntW v) s = .next s ∧
    exec .seqramR s = .next { s with rdata := [0x00#8] } ∧
    exec .qinfifoR s = .next { s with rdata := [0x00#8] }

/-- `DecodePhase` by the bits of the byte, and it undoes `PhaseCode` (43_phase_ops.md R293). -/
def Obligations.DecodePhaseByBits : Prop :=
  (∀ v : Byte,
    (v[3] = true → decodePhase v = some .selection) ∧
    (v[3] = false → v[2] = false → decodePhase v = some .busFree) ∧
    (v[3] = false → v[2] = true → v[1] = false → decodePhase v = some .arbitration) ∧
    (v[3] = false → v[2] = true → v[1] = true →
      (v.extractLsb' 5 3 = 0b000#3 → decodePhase v = some .dataOut) ∧
      (v.extractLsb' 5 3 = 0b010#3 → decodePhase v = some .dataIn) ∧
      (v.extractLsb' 5 3 = 0b100#3 → decodePhase v = some .command) ∧
      (v.extractLsb' 5 3 = 0b101#3 → decodePhase v = some .msgOut) ∧
      (v.extractLsb' 5 3 = 0b110#3 → decodePhase v = some .status) ∧
      (v.extractLsb' 5 3 = 0b111#3 → decodePhase v = some .msgIn) ∧
      (v.extractLsb' 5 3 = 0b001#3 ∨ v.extractLsb' 5 3 = 0b011#3 → decodePhase v = none))) ∧
  (∀ p : Phase, decodePhase (phaseCode p) = some p)

/-- The fourteen legal transitions, and no others (43_phase_ops.md R291). -/
def Obligations.LegalTransitionsAreFourteen : Prop :=
  ∀ p q : Phase, legal p q = true ↔
    (p = .busFree ∧ q = .arbitration) ∨ (p = .arbitration ∧ q = .selection) ∨
    (p = .selection ∧ (q = .msgOut ∨ q = .command)) ∨
    ((p = .msgOut ∨ p = .command) ∧ (q = .dataIn ∨ q = .dataOut ∨ q = .status)) ∨
    ((p = .dataIn ∨ p = .dataOut) ∧ q = .status) ∨ (p = .status ∧ q = .msgIn) ∨ (p = .msgIn ∧ q = .busFree)

/-- A SCSISIGO write of a reserved combination, or of the current phase, changes nothing; one of a legal next phase
moves the phase and sets PHASECHG, and BUSFREE if it is BusFree; one of any other phase is an illegal transition
attempt: PHASEMIS, BusFree forced (with PHASECHG and BUSFREE unless the phase was BusFree), and the fault ILLPHASE,
with `active` and `pc` kept (43_phase_ops.md R292, R294). -/
def Obligations.ScsisigoRequestsPhase : Prop :=
  ∀ (s : State) (v : Byte),
    encode (.scsisigoW v) = .access (writeAccess 0x003 v) ∧
    (decodePhase v = none ∨ decodePhase v = some s.phase → exec (.scsisigoW v) s = .next s) ∧
    (∀ p, decodePhase v = some p → p ≠ s.phase → legal s.phase p = true →
      exec (.scsisigoW v) s = .next { s with
        phase := p
        sstat0 := { s.sstat0 with phasechg := true, busfree := s.sstat0.busfree || p == .busFree } }) ∧
    (∀ p, decodePhase v = some p → p ≠ s.phase → legal s.phase p = false →
      exec (.scsisigoW v) s = .next (updateLine { s with
        phase := .busFree
        sstat0 := { s.sstat0 with
          phasemis := true
          phasechg := s.sstat0.phasechg || s.phase != .busFree
          busfree := s.sstat0.busfree || s.phase != .busFree }
        error := { s.error with illphase := true }
        halted := true
        pending := { s.pending with brkadrint := true } }))

/-- SSTAT0 returns the five transient bits, bits 7:5 zero, and clears them (41_register_ops.md R216). -/
def Obligations.Sstat0ReadsAndClears : Prop :=
  encode .sstat0R = .access (readAccess 0x00B) ∧
  ∀ s : State, ∃ b : Byte,
    exec .sstat0R s = .next { s with
      rdata := [b]
      sstat0 := { phasechg := false, busfree := false, phasemis := false, qinrej := false, qoutunf := false } } ∧
    b[0] = s.sstat0.phasechg ∧ b[1] = s.sstat0.busfree ∧ b[2] = s.sstat0.phasemis ∧ b[3] = s.sstat0.qinrej ∧
    b[4] = s.sstat0.qoutunf ∧ b[5] = false ∧ b[6] = false ∧ b[7] = false

/-- SSTAT1 returns the live status and changes nothing else (41_register_ops.md R217, 10_state.md R38, R52). -/
def Obligations.Sstat1ShowsLiveStatus : Prop :=
  encode .sstat1R = .access (readAccess 0x00C) ∧
  ∀ s : State, ∃ b : Byte,
    exec .sstat1R s = .next { s with rdata := [b] } ∧
    (b[0] = true ↔ s.qin.length = s.cfg.qdepth) ∧ (b[1] = true ↔ s.qin.length = 0) ∧
    (b[2] = true ↔ s.qout.length = s.cfg.qdepth) ∧ (b[3] = true ↔ s.qout.length = 0) ∧
    (b[4] = true ↔ s.active ≠ none) ∧
    b.extractLsb' 5 3 =
      if s.halted then 4#3
      else if s.regs.seqctl[0] then 1#3
      else if s.regs.hcntrl[2] = true ∧ s.active ≠ none then 3#3
      else if s.regs.hcntrl[2] = false ∧ (s.active ≠ none ∨ 0 < s.qin.length) then 2#3
      else 0#3

/-- SIMODE0 reads back as written; a write updates the line (41_register_ops.md R218). -/
def Obligations.Simode0ReadsAndMasks : Prop :=
  ∀ (s : State) (v : Byte),
    encode .simode0R = .access (readAccess 0x010) ∧
    encode (.simode0W v) = .access (writeAccess 0x010 v) ∧
    exec .simode0R s = .next { s with rdata := [s.regs.simode0] } ∧
    exec (.simode0W v) s = .next (updateLine { s with regs := { s.regs with simode0 := v } })

/-- SCSISIGI, STACK, INTSTAT and ERROR return the phase as its code (10_state.md R35), the depth, the pending causes and
the fault record in their bits, and change nothing else (41_register_ops.md R214, R232, R238, R239). -/
def Obligations.StatusReadsShowState : Prop :=
  encode .scsisigiR = .access (readAccess 0x003) ∧ encode .stackR = .access (readAccess 0x06F) ∧
  encode .intstatR = .access (readAccess 0x091) ∧ encode .errorR = .access (readAccess 0x092) ∧
  ∀ s : State,
    exec .scsisigiR s = .next { s with rdata := [
      match s.phase with
      | .busFree => 0x00#8
      | .arbitration => 0x04#8
      | .selection => 0x08#8
      | .dataOut => 0x06#8
      | .dataIn => 0x46#8
      | .command => 0x86#8
      | .msgOut => 0xA6#8
      | .status => 0xC6#8
      | .msgIn => 0xE6#8 ] } ∧
    (∃ b : Byte, exec .stackR s = .next { s with rdata := [b] } ∧ b.toNat = s.sp.val) ∧
    (∃ b : Byte, exec .intstatR s = .next { s with rdata := [b] } ∧
      b[0] = false ∧ b[1] = s.pending.cmdcmplt ∧ b[2] = s.pending.scsiint ∧ b[3] = s.pending.brkadrint ∧
      b[4] = s.pending.parerrint ∧ b[5] = false ∧ b[6] = false ∧ b[7] = false) ∧
    (∃ b : Byte, exec .errorR s = .next { s with rdata := [b] } ∧
      b[0] = s.error.illphase ∧ b[1] = s.error.stkovf ∧ b[2] = s.error.illopcode ∧ b[3] = s.error.stkunf ∧
      b[4] = false ∧ b[5] = false ∧ b[6] = false ∧ b[7] = false)

/-- A CLRINT write clears exactly the causes whose bit is 1 and then updates the line once (41_register_ops.md R240). -/
def Obligations.ClrintClearsSelectedCauses : Prop :=
  ∀ (s : State) (v : Byte),
    encode (.clrintW v) = .access (writeAccess 0x092 v) ∧
    exec (.clrintW v) s = .next (updateLine { s with pending :=
      { cmdcmplt := if v[1] then false else s.pending.cmdcmplt
        scsiint := if v[2] then false else s.pending.scsiint
        brkadrint := if v[3] then false else s.pending.brkadrint
        parerrint := if v[4] then false else s.pending.parerrint } })

/-- SEQCTL reads the stored byte; a write does SEQRESET under the gate as it stood, stores all bits but bit 1, and on
a 0-to-1 change of LOADRAM sets the load pointer to 0 (41_register_ops.md R223, R224, R225). -/
def Obligations.SeqctlReadsAndControls : Prop :=
  ∀ (s : State) (v : Byte),
    encode .seqctlR = .access (readAccess 0x060) ∧
    encode (.seqctlW v) = .access (writeAccess 0x060 v) ∧
    exec .seqctlR s = .next { s with rdata := [s.regs.seqctl] } ∧
    exec (.seqctlW v) s = .next { s with
      pc := if v[1] = true ∧ (s.regs.hcntrl[2] = true ∨ s.halted = true) then 0 else s.pc
      sp := if v[1] = true ∧ (s.regs.hcntrl[2] = true ∨ s.halted = true) then 0 else s.sp
      regs := { s.regs with seqctl := v &&& 0xFD#8 }
      loadAddr := if s.regs.seqctl[0] = false ∧ v[0] = true then 0 else s.loadAddr
      loadLane := if s.regs.seqctl[0] = false ∧ v[0] = true then 0 else s.loadLane }

/-- A SEQRAM write while loading changes the one RAM byte at the load pointer and advances the pointer; while not
loading it changes nothing (41_register_ops.md R226). -/
def Obligations.SeqramWriteFillsOneLane : Prop :=
  ∀ (s : State) (v : Byte),
    encode (.seqramW v) = .access (writeAccess 0x061 v) ∧
    (s.regs.seqctl[0] = false → exec (.seqramW v) s = .next s) ∧
    (s.regs.seqctl[0] = true → ∃ t, exec (.seqramW v) s = .next t ∧
      t = { s with
        ram := t.ram
        loadLane := if s.loadLane = 3#2 then 0#2 else s.loadLane + 1
        loadAddr := if s.loadLane = 3#2 then s.loadAddr + 1 else s.loadAddr } ∧
      (∀ a, Memory.read t.ram a = if a = laneAddr s.loadAddr s.loadLane then v else Memory.read s.ram a))

/-- Four SEQRAM writes from lane 0 load one word, least significant byte first, and leave every other word
(30_encoding.md R140, 20_memory.md R106, R112). -/
def Obligations.FourSeqramWritesLoadWord : Prop :=
  ∀ (s : State) (b0 b1 b2 b3 : Byte), s.regs.seqctl[0] = true → s.loadLane = 0#2 →
    ∃ s1 s2 s3 t, exec (.seqramW b0) s = .next s1 ∧ exec (.seqramW b1) s1 = .next s2 ∧
      exec (.seqramW b2) s2 = .next s3 ∧ exec (.seqramW b3) s3 = .next t ∧
      t = { s with ram := t.ram, loadAddr := s.loadAddr + 1 } ∧
      ramWord t.ram s.loadAddr = b3 ++ b2 ++ b1 ++ b0 ∧
      (∀ a, a ≠ s.loadAddr → ramWord t.ram a = ramWord s.ram a)

/-- SEQADDR0/1 read the low byte and bit 8 of `load_addr` while loading, of `pc` otherwise; a write sets, while loading,
that half of `load_addr`, and `load_lane` to 0; else that half of `pc` if paused or Halted; else nothing
(41_register_ops.md R228, R229). -/
def Obligations.SeqaddrBankedWindow : Prop :=
  ∀ (s : State) (v : Byte),
    encode .seqaddr0R = .access (readAccess 0x062) ∧ encode .seqaddr1R = .access (readAccess 0x063) ∧
    encode (.seqaddr0W v) = .access (writeAccess 0x062 v) ∧
    encode (.seqaddr1W v) = .access (writeAccess 0x063 v) ∧
    (∃ a : SeqAddr, a = (if s.regs.seqctl[0] then s.loadAddr else s.pc) ∧
      exec .seqaddr0R s = .next { s with rdata := [a.extractLsb' 0 8] } ∧
      exec .seqaddr1R s = .next { s with rdata := [if a[8] then 0x01#8 else 0x00#8] }) ∧
    (s.regs.seqctl[0] = true →
      exec (.seqaddr0W v) s =
        .next { s with loadAddr := BitVec.ofBool s.loadAddr[8] ++ v, loadLane := 0#2 } ∧
      exec (.seqaddr1W v) s =
        .next { s with loadAddr := BitVec.ofBool v[0] ++ s.loadAddr.extractLsb' 0 8, loadLane := 0#2 }) ∧
    (s.regs.seqctl[0] = false → s.regs.hcntrl[2] = true ∨ s.halted = true →
      exec (.seqaddr0W v) s = .next { s with pc := BitVec.ofBool s.pc[8] ++ v } ∧
      exec (.seqaddr1W v) s = .next { s with pc := BitVec.ofBool v[0] ++ s.pc.extractLsb' 0 8 }) ∧
    (s.regs.seqctl[0] = false → s.regs.hcntrl[2] = false → s.halted = false →
      exec (.seqaddr0W v) s = .next s ∧ exec (.seqaddr1W v) s = .next s)

/-- ACCUM, SINDEX and DINDEX read at any time and are written iff the engine is paused or Halted (41_register_ops.md
R230, 10_state.md R42). -/
def Obligations.ContextRegistersGated : Prop :=
  ∀ (s : State) (v : Byte),
    encode .accumR = .access (readAccess 0x064) ∧ encode (.accumW v) = .access (writeAccess 0x064 v) ∧
    encode .sindexR = .access (readAccess 0x065) ∧ encode (.sindexW v) = .access (writeAccess 0x065 v) ∧
    encode .dindexR = .access (readAccess 0x066) ∧ encode (.dindexW v) = .access (writeAccess 0x066 v) ∧
    exec .accumR s = .next { s with rdata := [s.accum] } ∧
    exec .sindexR s = .next { s with rdata := [s.sindex] } ∧
    exec .dindexR s = .next { s with rdata := [s.dindex] } ∧
    (s.regs.hcntrl[2] = true ∨ s.halted = true →
      exec (.accumW v) s = .next { s with accum := v } ∧
      exec (.sindexW v) s = .next { s with sindex := v } ∧
      exec (.dindexW v) s = .next { s with dindex := v }) ∧
    (s.regs.hcntrl[2] = false → s.halted = false →
      exec (.accumW v) s = .next s ∧ exec (.sindexW v) s = .next s ∧ exec (.dindexW v) s = .next s)

/-- BRKADDR1 reads the stored byte; a write stores bits 7 and 0 (41_register_ops.md R231). -/
def Obligations.Brkaddr1StoresTwoBits : Prop :=
  ∀ (s : State) (v : Byte),
    encode .brkaddr1R = .access (readAccess 0x068) ∧
    encode (.brkaddr1W v) = .access (writeAccess 0x068 v) ∧
    exec .brkaddr1R s = .next { s with rdata := [s.regs.brkaddr1] } ∧
    exec (.brkaddr1W v) s = .next { s with regs := { s.regs with brkaddr1 := v &&& 0x81#8 } }

/-- HCNTRL reads the stored byte; a write with bit 0 clear stores the byte and updates the line (41_register_ops.md
R233, R235). -/
def Obligations.HcntrlReadsAndStores : Prop :=
  ∀ (s : State) (v : Byte),
    encode .hcntrlR = .access (readAccess 0x087) ∧
    encode (.hcntrlW v) = .access (writeAccess 0x087 v) ∧
    exec .hcntrlR s = .next { s with rdata := [s.regs.hcntrl] } ∧
    (v[0] = false → exec (.hcntrlW v) s = .next (updateLine { s with regs := { s.regs with hcntrl := v } }))

/-- The reset operation, by a HCNTRL write with bit 0 set and by the `reset` input alike, which a step takes off the
inputs and processes, leaves every element of the
state at its reset value, with one falling edge iff the line was asserted; every byte of the RAM and of the SCB array
reads 0x00; the mode is Idle and the engine cannot step (70_reset_and_hazards.md R350, 41_register_ops.md R236). -/
def Obligations.ResetRestoresEveryElement : Prop :=
  ∀ (s : State) (v : Byte), v[0] = true →
    ∃ t, exec (.hcntrlW v) s = .next t ∧ acceptInput .reset s = .next t ∧
      t.accum = 0x00#8 ∧ t.sindex = 0x00#8 ∧ t.dindex = 0x00#8 ∧ t.pc = 0x000#9 ∧ t.sp = 0 ∧
      (∀ k (h : k < 4), t.stack[k] = 0x000#9) ∧ t.halted = false ∧ t.error.any = false ∧
      (∀ a, ramWord t.ram a = 0x00000000#32) ∧ t.loadAddr = 0x000#9 ∧ t.loadLane = 0#2 ∧
      (∀ i k, scbByte t.scb i k = 0x00#8) ∧ t.active = none ∧ t.qin = [] ∧ t.qout = [] ∧ t.phase = .busFree ∧
      (∀ c, t.pending.get c = false) ∧ t.sstat0.toByte = 0x00#8 ∧
      (∀ r, t.regs.get r = 0x00#8) ∧ t.regs.simode0 = 0x00#8 ∧ t.regs.seqctl = 0x00#8 ∧
      t.regs.hcntrl = 0x04#8 ∧ t.regs.brkaddr1 = 0x80#8 ∧ t.irqLine = false ∧
      t.edges = (if s.irqLine then false :: s.edges else s.edges) ∧ t.mode = .idle ∧ t.canStep = false ∧
      (∀ rest, s.canStep = false → s.inputs = .reset :: rest → step s = .next { t with inputs := rest })

/-- What is no state of the block stays over a reset: QDEPTH, the inputs still to come, the last read data. The model's
choice (log 6). -/
def Obligations.ResetKeepsModelFields : Prop :=
  ∀ (s : State) (v : Byte), v[0] = true →
    ∃ t, exec (.hcntrlW v) s = .next t ∧ acceptInput .reset s = .next t ∧
      t.cfg = s.cfg ∧ t.inputs = s.inputs ∧ t.rdata = s.rdata

/-- A QINFIFO write appends the index if there is room, else sets QINREJ and enqueues nothing; a QOUTFIFO read pops the
oldest completed index, on an empty FIFO it returns 0xFF and sets QOUTUNF (42_queue_ops.md R261, R264). -/
def Obligations.QueuePortsEnqueueAndDequeue : Prop :=
  ∀ (s : State) (v : Byte),
    encode (.qinfifoW v) = .access (writeAccess 0x09B v) ∧ encode .qoutfifoR = .access (readAccess 0x09D) ∧
    (s.qin.length ≠ s.cfg.qdepth → exec (.qinfifoW v) s = .next { s with qin := s.qin ++ [v] }) ∧
    (s.qin.length = s.cfg.qdepth →
      exec (.qinfifoW v) s = .next { s with sstat0 := { s.sstat0 with qinrej := true } }) ∧
    (∀ i rest, s.qout = i :: rest → exec .qoutfifoR s = .next { s with rdata := [i], qout := rest }) ∧
    (s.qout = [] → exec .qoutfifoR s = .next { s with
      rdata := [0xFF#8], sstat0 := { s.sstat0 with qoutunf := true } })

/-- QINCNT and QOUTCNT return the FIFO lengths as bytes, exact for a FIFO within its capacity (42_queue_ops.md R263,
R265). -/
def Obligations.CountReadsAreExact : Prop :=
  encode .qincntR = .access (readAccess 0x09C) ∧ encode .qoutcntR = .access (readAccess 0x09E) ∧
  ∀ s : State, s.cfg.wf = true → s.qin.length ≤ s.cfg.qdepth → s.qout.length ≤ s.cfg.qdepth →
    (∃ b : Byte, exec .qincntR s = .next { s with rdata := [b] } ∧ b.toNat = s.qin.length) ∧
    (∃ b : Byte, exec .qoutcntR s = .next { s with rdata := [b] } ∧ b.toNat = s.qout.length)

/-- The SCB window reads and writes byte `k` of the slot SCBPTR selects; every other byte of every slot stays
(42_queue_ops.md R270). -/
def Obligations.ScbWindowReadsAndWritesSlot : Prop :=
  ∀ (s : State) (k : BitVec 5) (v : Byte),
    encode (.scbwinR k) = .access (readAccess (0x0A0 + k.toNat)) ∧
    encode (.scbwinW k v) = .access (writeAccess (0x0A0 + k.toNat) v) ∧
    exec (.scbwinR k) s = .next { s with rdata := [scbByte s.scb s.regs.scbptr k] } ∧
    ∃ t, exec (.scbwinW k v) s = .next t ∧ t = { s with scb := t.scb } ∧
      scbByte t.scb s.regs.scbptr k = v ∧
      (∀ i j, ¬ (i = s.regs.scbptr ∧ j = k) → scbByte t.scb i j = scbByte s.scb i j) ∧
      (∀ a, a ≠ scbAddr s.regs.scbptr k → Memory.read t.scb a = Memory.read s.scb a)

/-- A write read back at once returns what the register stores of it, where its gate is open (41_register_ops.md
R243). -/
def Obligations.WriteThenReadRoundTrips : Prop :=
  ∀ (s : State) (v : Byte),
    (∀ r : PlainReg, ∃ t u, exec (r.writeInstr v) s = .next t ∧ exec r.readInstr t = .next u ∧ u.rdata = [v]) ∧
    (∃ t u, exec (.simode0W v) s = .next t ∧ exec .simode0R t = .next u ∧ u.rdata = [v]) ∧
    (∃ t u, exec (.seqctlW v) s = .next t ∧ exec .seqctlR t = .next u ∧ u.rdata = [v &&& 0xFD#8]) ∧
    (v[0] = false → ∃ t u, exec (.hcntrlW v) s = .next t ∧ exec .hcntrlR t = .next u ∧ u.rdata = [v &&& 0xFE#8]) ∧
    (∃ t u, exec (.brkaddr1W v) s = .next t ∧ exec .brkaddr1R t = .next u ∧ u.rdata = [v &&& 0x81#8]) ∧
    (∀ k, ∃ t u, exec (.scbwinW k v) s = .next t ∧ exec (.scbwinR k) t = .next u ∧ u.rdata = [v]) ∧
    (s.regs.hcntrl[2] = true ∨ s.halted = true →
      (∃ t u, exec (.accumW v) s = .next t ∧ exec .accumR t = .next u ∧ u.rdata = [v]) ∧
      (∃ t u, exec (.sindexW v) s = .next t ∧ exec .sindexR t = .next u ∧ u.rdata = [v]) ∧
      (∃ t u, exec (.dindexW v) s = .next t ∧ exec .dindexR t = .next u ∧ u.rdata = [v])) ∧
    (s.regs.seqctl[0] = true ∨ s.regs.hcntrl[2] = true ∨ s.halted = true →
      (∃ t u, exec (.seqaddr0W v) s = .next t ∧ exec .seqaddr0R t = .next u ∧ u.rdata = [v]) ∧
      (∃ t u, exec (.seqaddr1W v) s = .next t ∧ exec .seqaddr1R t = .next u ∧ u.rdata = [v &&& 0x01#8]))

/-! ### Whole-machine rules -/

/-- The invariants hold in the state after reset. -/
def Obligations.ResetSatisfiesInvariants : Prop := State.reset.Inv

/-- Every step keeps the invariants (10_state.md R53 b, c, d), from every state that has them. -/
def Obligations.StepKeepsInvariants : Prop :=
  ∀ s t : State, s.Inv → step s = .next t → t.Inv

/-- Every engine step lowers the measure `M` or leaves the engine unable to step; a run of `M(s) + 1` steps has ended;
and under the invariants that is at most `7 · QDEPTH + 8` steps (40_sequencer.md R175, 43_phase_ops.md R298). -/
def Obligations.EveryRunEndsWithinMeasure : Prop :=
  (∀ s t : State, s.canStep = true → step s = .next t → t.measure < s.measure ∨ t.canStep = false) ∧
  (∀ s : State, ∃ t, run s = .next t ∧ t.canStep = false) ∧
  (∀ s : State, s.Inv → s.measure + 1 ≤ 7 * s.cfg.qdepth + 8)

/-- The whole access of 20_memory.md R104, its register effect and the run that follows, is what the machine's steps
do from the state with that access next: some number of steps reaches the same state, with the engine settled and
the next input still to come (20_memory.md R109). -/
def Obligations.StepsRealiseWholeAccess : Prop :=
  ∀ (s : State) (a : Access) (rest : List Input), s.canStep = false → s.inputs = .access a :: rest →
    ∃ n t, access a { s with inputs := rest } = .next t ∧ Host.Core.run Sys2Proof.core n s = .next t ∧
      t.inputs = rest ∧ t.canStep = false

/-- SCBs leave in the order they came: an engine step keeps the sequence of completed, in-flight and queued SCBs; an
accepted QINFIFO write appends to it unless the FIFO is full; a QOUTFIFO read takes its first completed entry; no
other input but a reset changes it (42_queue_ops.md R269). -/
def Obligations.ScbsStayInFifoOrder : Prop :=
  ∀ s t : State, step s = .next t →
    (s.canStep = true → t.pipeline = s.pipeline) ∧
    (s.canStep = false → ∀ i rest, s.inputs = i :: rest → i.resets = false →
      (∀ v, i.submits = some v →
        t.pipeline = if s.qin.length = s.cfg.qdepth then s.pipeline else s.pipeline ++ [v]) ∧
      (i.drains = true → t.pipeline = if s.qout = [] then s.pipeline else s.pipeline.tail) ∧
      (i.submits = none → i.drains = false → t.pipeline = s.pipeline)) ∧
    (s.canStep = false → s.inputs = [] → t.pipeline = s.pipeline)

/-- Nothing but a reset leaves Halted, clears a fault bit, consumes an SCB or changes the SCB in flight of a Halted
engine (60_exceptions.md R315, R317). -/
def Obligations.HaltedIsLeftOnlyByReset : Prop :=
  ∀ s t : State, s.halted = true → step s = .next t →
    (∀ i rest, s.inputs = i :: rest → i.resets = false) →
    t.halted = true ∧ t.active = s.active ∧ (t.qin = s.qin ∨ ∃ v, t.qin = s.qin ++ [v]) ∧
      (s.error.illphase = true → t.error.illphase = true) ∧ t.error.stkovf = s.error.stkovf ∧
      t.error.illopcode = s.error.illopcode ∧ t.error.stkunf = s.error.stkunf

/-- A step that enters Halted leaves BRKADRINT pending (10_state.md R53 e). -/
def Obligations.EnteringHaltedRaisesBrkadrint : Prop :=
  ∀ s t : State, step s = .next t → s.halted = false → t.halted = true → t.pending.brkadrint = true

/-- The RAM changes only by a SEQRAM write while loading or by a reset (41_register_ops.md R244). -/
def Obligations.RamChangesOnlyByLoadOrReset : Prop :=
  ∀ s t : State, step s = .next t → t.ram ≠ s.ram →
    s.canStep = false ∧ ∃ i rest, s.inputs = i :: rest ∧
      (i.resets = true ∨ (i.writesSeqram = true ∧ s.regs.seqctl[0] = true))

/-- The phase changes only by a legal transition, by a forced BusFree that faults ILLPHASE, or by a reset
(43_phase_ops.md R292, R299). -/
def Obligations.PhaseChangesOnlyAsAllowed : Prop :=
  ∀ s t : State, step s = .next t → t.phase ≠ s.phase →
    legal s.phase t.phase = true ∨
    (t.phase = .busFree ∧ t.error.illphase = true ∧ t.halted = true) ∨
    (s.canStep = false ∧ t.phase = .busFree ∧ ∃ i rest, s.inputs = i :: rest ∧ i.resets = true)

/-- The canonical form of a store is unique: stores that read alike everywhere are equal (the model's representation,
log 7). -/
def Obligations.CanonicalStoresAreEqual : Prop :=
  ∀ m n : Memory, Memory.wf m = true → Memory.wf n = true →
    (∀ a, Memory.read m a = Memory.read n a) → m = n

/-- The ring buffer implements the FIFO: a push appends to its contents, a pop removes the first entry, and both keep
its form (42_queue_ops.md R274). -/
def Obligations.RingImplementsFifo : Prop :=
  (∀ depth, 1 ≤ depth → (Ring.reset depth).wf depth = true ∧ (Ring.reset depth).contents depth = []) ∧
  (∀ (depth : Nat) (r : Ring) (v : Byte), r.wf depth = true → r.isFull depth = false →
    (r.push depth v).wf depth = true ∧ (r.push depth v).contents depth = r.contents depth ++ [v]) ∧
  (∀ (depth : Nat) (r : Ring), r.wf depth = true → r.isEmpty = false →
    (r.pop depth).2.wf depth = true ∧
      r.contents depth = (r.pop depth).1 :: (r.pop depth).2.contents depth)
end

