-- ==== Sys2Proof/Laws/Encoding.lean ====
section
/-! SUPPORT. The fields of an encoded sequencer word (30_encoding.md R141), each read back. -/

namespace Sys2Proof

theorem toNat_append_add {m n : Nat} (x : BitVec m) (y : BitVec n) :
    (x ++ y).toNat = x.toNat * 2 ^ n + y.toNat := by
  rw [BitVec.toNat_append, ← Nat.shiftLeft_add_eq_or_of_lt y.isLt, Nat.shiftLeft_eq]

/-- The fields of a word as parts of its number. -/
theorem seqWord_toNat (op : BitVec 4) (addr : SeqAddr) (imm : Byte) :
    (seqWord op addr imm).toNat = op.toNat * 2 ^ 28 + addr.toNat * 2 ^ 8 + imm.toNat := by
  unfold seqWord
  rw [toNat_append_add, toNat_append_add, toNat_append_add]
  simp; omega

theorem opField_seqWord (op : BitVec 4) (addr : SeqAddr) (imm : Byte) : opField (seqWord op addr imm) = op := by
  apply BitVec.eq_of_toNat_eq
  have := addr.isLt; have := imm.isLt; have := op.isLt
  simp only [opField, BitVec.extractLsb'_toNat, seqWord_toNat, Nat.shiftRight_eq_div_pow]
  omega

theorem rsvField_seqWord (op : BitVec 4) (addr : SeqAddr) (imm : Byte) : rsvField (seqWord op addr imm) = 0 := by
  apply BitVec.eq_of_toNat_eq
  have := addr.isLt; have := imm.isLt; have := op.isLt
  simp only [rsvField, BitVec.extractLsb'_toNat, seqWord_toNat, Nat.shiftRight_eq_div_pow]
  simp; omega

theorem addrField_seqWord (op : BitVec 4) (addr : SeqAddr) (imm : Byte) :
    addrField (seqWord op addr imm) = addr := by
  apply BitVec.eq_of_toNat_eq
  have := addr.isLt; have := imm.isLt; have := op.isLt
  simp only [addrField, BitVec.extractLsb'_toNat, seqWord_toNat, Nat.shiftRight_eq_div_pow]
  omega

theorem immField_seqWord (op : BitVec 4) (addr : SeqAddr) (imm : Byte) : immField (seqWord op addr imm) = imm := by
  apply BitVec.eq_of_toNat_eq
  have := addr.isLt; have := imm.isLt; have := op.isLt
  simp only [immField, BitVec.extractLsb'_toNat, seqWord_toNat, Nat.shiftRight_eq_div_pow]
  omega

/-- Bit 31 of a word is the top bit of its opcode (30_encoding.md R143, R144). -/
theorem seqWord_bit31 (op : BitVec 4) (addr : SeqAddr) (imm : Byte) : (seqWord op addr imm)[31] = op[3] := by
  have := addr.isLt; have := imm.isLt; have := op.isLt
  simp only [BitVec.getElem_eq_testBit_toNat, seqWord_toNat, Nat.testBit_eq_decide_div_mod_eq]
  congr 1
  simp only [eq_iff_iff]
  omega

/-- A word is its fields (30_encoding.md R141). -/
theorem word_of_fields (w : SeqWord) : w = opField w ++ rsvField w ++ addrField w ++ immField w := by
  apply BitVec.eq_of_toNat_eq
  have := w.isLt
  rw [toNat_append_add, toNat_append_add, toNat_append_add]
  simp only [opField, rsvField, addrField, immField, BitVec.extractLsb'_toNat, Nat.shiftRight_eq_div_pow]
  omega

end Sys2Proof
end

