-- ==== Sys2Proof/Laws/Memory.lean ====
section
/-! SUPPORT. The byte stores: a read after a write, and the canonical form that every write keeps. -/

namespace Sys2Proof.Machine

@[simp] theorem Memory.read_nil (a : Nat) : Memory.read [] a = 0x00#8 := rfl

theorem Memory.read_erase_same (m : Memory) (a : Nat) : Memory.read (Memory.erase m a) a = 0x00#8 := by
  induction m with
  | nil => rfl
  | cons c m ih =>
    obtain ⟨b, w⟩ := c
    by_cases h : a = b <;> simp [Memory.erase, Memory.read, h]
    · simpa [h] using ih
    · simpa using ih

theorem Memory.read_erase_other (m : Memory) {a b : Nat} (h : b ≠ a) :
    Memory.read (Memory.erase m a) b = Memory.read m b := by
  induction m with
  | nil => rfl
  | cons c m ih =>
    obtain ⟨k, w⟩ := c
    by_cases hk : a = k
    · subst hk; simp [Memory.erase, Memory.read, h, ih]
    · by_cases hb : b = k <;> simp [Memory.erase, Memory.read, hk, hb, ih]

theorem Memory.read_insert_same (m : Memory) (a : Nat) (v : Byte) (h : ∀ c ∈ m, c.1 ≠ a) :
    Memory.read (Memory.insert m a v) a = v := by
  induction m with
  | nil => simp [Memory.insert, Memory.read]
  | cons c m ih =>
    obtain ⟨b, w⟩ := c
    have hb : a ≠ b := fun e => h (b, w) (by simp) e.symm
    by_cases hlt : a < b
    · simp [Memory.insert, Memory.read, hlt]
    · simp [Memory.insert, Memory.read, hlt, hb]
      exact ih (fun c hc => h c (by simp [hc]))

theorem Memory.read_insert_other (m : Memory) {a b : Nat} (v : Byte) (h : b ≠ a) :
    Memory.read (Memory.insert m a v) b = Memory.read m b := by
  induction m with
  | nil => simp [Memory.insert, Memory.read, h]
  | cons c m ih =>
    obtain ⟨k, w⟩ := c
    by_cases hlt : a < k <;> by_cases hb : b = k <;> simp [Memory.insert, Memory.read, hlt, hb, h, ih]
    · intro hk; omega

theorem Memory.erase_ne (m : Memory) (a : Nat) : ∀ c ∈ Memory.erase m a, c.1 ≠ a := by
  induction m with
  | nil => simp [Memory.erase]
  | cons c m ih =>
    obtain ⟨b, w⟩ := c
    by_cases h : a = b
    · subst h; simpa [Memory.erase] using ih
    · intro c hc
      simp [Memory.erase, h] at hc
      rcases hc with rfl | hc
      · exact fun e => h e.symm
      · exact ih c hc

@[simp] theorem Memory.read_write_same (m : Memory) (a : Nat) (v : Byte) :
    Memory.read (Memory.write m a v) a = v := by
  unfold Memory.write
  split
  · simp [Memory.read_erase_same, *]
  · exact Memory.read_insert_same _ _ _ (Memory.erase_ne m a)

theorem Memory.read_write_other (m : Memory) {a b : Nat} (v : Byte) (h : b ≠ a) :
    Memory.read (Memory.write m a v) b = Memory.read m b := by
  unfold Memory.write
  split
  · exact Memory.read_erase_other m h
  · rw [Memory.read_insert_other _ _ h, Memory.read_erase_other m h]

theorem Memory.read_write (m : Memory) (a b : Nat) (v : Byte) :
    Memory.read (Memory.write m a v) b = if b = a then v else Memory.read m b := by
  split
  · subst_vars; simp
  · exact Memory.read_write_other m v (by assumption)

theorem Memory.wfFrom_mono {m : Memory} {lo lo' : Nat} (h : lo' ≤ lo) (hm : Memory.wfFrom lo m = true) :
    Memory.wfFrom lo' m = true := by
  cases m with
  | nil => rfl
  | cons c m =>
    obtain ⟨b, w⟩ := c
    simp [Memory.wfFrom] at hm ⊢
    exact ⟨⟨by omega, hm.1.2⟩, hm.2⟩

theorem Memory.wfFrom_erase (m : Memory) (a : Nat) :
    ∀ lo, Memory.wfFrom lo m = true → Memory.wfFrom lo (Memory.erase m a) = true := by
  induction m with
  | nil => intro lo _; rfl
  | cons c m ih =>
    obtain ⟨b, w⟩ := c
    intro lo h
    simp [Memory.wfFrom] at h
    by_cases hb : a = b
    · simp [Memory.erase, hb]
      exact Memory.wfFrom_mono (by omega) (hb ▸ ih _ h.2)
    · simp [Memory.erase, hb, Memory.wfFrom, h.1]
      exact ih _ h.2

theorem Memory.wfFrom_insert (m : Memory) (a : Nat) (v : Byte) (hv : v ≠ 0x00#8) (hne : ∀ c ∈ m, c.1 ≠ a) :
    ∀ lo, lo ≤ a → Memory.wfFrom lo m = true → Memory.wfFrom lo (Memory.insert m a v) = true := by
  induction m with
  | nil => intro lo hlo _; simp [Memory.insert, Memory.wfFrom, hlo, hv]
  | cons c m ih =>
    obtain ⟨b, w⟩ := c
    intro lo hlo h
    simp [Memory.wfFrom] at h
    have hab : b ≠ a := hne (b, w) (by simp)
    by_cases hlt : a < b
    · simp [Memory.insert, hlt, Memory.wfFrom, hlo, hv, h]
    · simp [Memory.insert, hlt, Memory.wfFrom, h.1]
      exact ih (fun c hc => hne c (by simp [hc])) _ (by omega) h.2

/-- A write keeps the canonical form. -/
theorem Memory.wf_write (m : Memory) (a : Nat) (v : Byte) (h : Memory.wf m = true) :
    Memory.wf (Memory.write m a v) = true := by
  unfold Memory.write Memory.wf at *
  split
  · exact Memory.wfFrom_erase m a 0 h
  · exact Memory.wfFrom_insert _ a v (by assumption) (Memory.erase_ne m a) 0 (by omega)
      (Memory.wfFrom_erase m a 0 h)

theorem Memory.below_erase {n : Nat} {m : Memory} (a : Nat) (h : Memory.below n m = true) :
    Memory.below n (Memory.erase m a) = true := by
  induction m with
  | nil => rfl
  | cons c m ih =>
    obtain ⟨b, w⟩ := c
    simp [Memory.below] at h ih
    by_cases hb : a = b
    · simpa [Memory.erase, hb, Memory.below] using (hb ▸ ih h.2)
    · simpa [Memory.erase, hb, Memory.below, h.1] using ih h.2

theorem Memory.below_insert {n : Nat} {m : Memory} (a : Nat) (v : Byte) (ha : a < n)
    (h : Memory.below n m = true) : Memory.below n (Memory.insert m a v) = true := by
  induction m with
  | nil => simp [Memory.insert, Memory.below, ha]
  | cons c m ih =>
    obtain ⟨b, w⟩ := c
    simp [Memory.below] at h ih
    by_cases hlt : a < b
    · simpa [Memory.insert, hlt, Memory.below, ha, h.1] using h.2
    · simpa [Memory.insert, hlt, Memory.below, h.1] using ih h.2

/-- A write below a bound keeps the bound. -/
theorem Memory.below_write {n : Nat} {m : Memory} (a : Nat) (v : Byte) (ha : a < n)
    (h : Memory.below n m = true) : Memory.below n (Memory.write m a v) = true := by
  unfold Memory.write
  split
  · exact Memory.below_erase a h
  · exact Memory.below_insert a v ha (Memory.below_erase a h)

theorem laneAddr_lt (a : SeqAddr) (l : BitVec 2) : laneAddr a l < ramBytes := by
  unfold laneAddr ramBytes seqWords; have := a.isLt; have := l.isLt; omega

theorem scbAddr_lt (i : Byte) (k : BitVec 5) : scbAddr i k < scbBytes := by
  unfold scbAddr scbBytes scbSlots scbSize; have := i.isLt; have := k.isLt; omega

/-- Two lanes have one address only if they are the same lane of the same word. -/
theorem laneAddr_inj {a b : SeqAddr} {k l : BitVec 2} (h : laneAddr a k = laneAddr b l) : a = b ∧ k = l := by
  unfold laneAddr at h
  have := k.isLt; have := l.isLt
  exact ⟨BitVec.eq_of_toNat_eq (by omega), BitVec.eq_of_toNat_eq (by omega)⟩

/-- Two slot bytes have one address only if they are the same byte of the same slot. -/
theorem scbAddr_inj {i j : Byte} {k l : BitVec 5} (h : scbAddr i k = scbAddr j l) : i = j ∧ k = l := by
  unfold scbAddr at h
  have := k.isLt; have := l.isLt
  exact ⟨BitVec.eq_of_toNat_eq (by omega), BitVec.eq_of_toNat_eq (by omega)⟩

end Sys2Proof.Machine
end

