-- ==== Sys2Proof/Laws/State.lean ====
section
/-! SUPPORT. For each update of the state the shared operations make, one lemma per field it leaves alone, and one for
each field it sets. -/

namespace Sys2Proof.Machine

/-! ### answerByte -/

@[simp] theorem answerByte_accum (v : Byte) (s : State) : (answerByte v s).accum = s.accum := rfl
@[simp] theorem answerByte_sindex (v : Byte) (s : State) : (answerByte v s).sindex = s.sindex := rfl
@[simp] theorem answerByte_dindex (v : Byte) (s : State) : (answerByte v s).dindex = s.dindex := rfl
@[simp] theorem answerByte_pc (v : Byte) (s : State) : (answerByte v s).pc = s.pc := rfl
@[simp] theorem answerByte_stack (v : Byte) (s : State) : (answerByte v s).stack = s.stack := rfl
@[simp] theorem answerByte_sp (v : Byte) (s : State) : (answerByte v s).sp = s.sp := rfl
@[simp] theorem answerByte_halted (v : Byte) (s : State) : (answerByte v s).halted = s.halted := rfl
@[simp] theorem answerByte_error (v : Byte) (s : State) : (answerByte v s).error = s.error := rfl
@[simp] theorem answerByte_ram (v : Byte) (s : State) : (answerByte v s).ram = s.ram := rfl
@[simp] theorem answerByte_loadAddr (v : Byte) (s : State) : (answerByte v s).loadAddr = s.loadAddr := rfl
@[simp] theorem answerByte_loadLane (v : Byte) (s : State) : (answerByte v s).loadLane = s.loadLane := rfl
@[simp] theorem answerByte_scb (v : Byte) (s : State) : (answerByte v s).scb = s.scb := rfl
@[simp] theorem answerByte_active (v : Byte) (s : State) : (answerByte v s).active = s.active := rfl
@[simp] theorem answerByte_qin (v : Byte) (s : State) : (answerByte v s).qin = s.qin := rfl
@[simp] theorem answerByte_qout (v : Byte) (s : State) : (answerByte v s).qout = s.qout := rfl
@[simp] theorem answerByte_phase (v : Byte) (s : State) : (answerByte v s).phase = s.phase := rfl
@[simp] theorem answerByte_pending (v : Byte) (s : State) : (answerByte v s).pending = s.pending := rfl
@[simp] theorem answerByte_irqLine (v : Byte) (s : State) : (answerByte v s).irqLine = s.irqLine := rfl
@[simp] theorem answerByte_sstat0 (v : Byte) (s : State) : (answerByte v s).sstat0 = s.sstat0 := rfl
@[simp] theorem answerByte_regs (v : Byte) (s : State) : (answerByte v s).regs = s.regs := rfl
@[simp] theorem answerByte_cfg (v : Byte) (s : State) : (answerByte v s).cfg = s.cfg := rfl
@[simp] theorem answerByte_inputs (v : Byte) (s : State) : (answerByte v s).inputs = s.inputs := rfl
@[simp] theorem answerByte_edges (v : Byte) (s : State) : (answerByte v s).edges = s.edges := rfl

/-! ### setPause -/

@[simp] theorem setPause_accum (s : State) : (setPause s).accum = s.accum := rfl
@[simp] theorem setPause_sindex (s : State) : (setPause s).sindex = s.sindex := rfl
@[simp] theorem setPause_dindex (s : State) : (setPause s).dindex = s.dindex := rfl
@[simp] theorem setPause_pc (s : State) : (setPause s).pc = s.pc := rfl
@[simp] theorem setPause_stack (s : State) : (setPause s).stack = s.stack := rfl
@[simp] theorem setPause_sp (s : State) : (setPause s).sp = s.sp := rfl
@[simp] theorem setPause_halted (s : State) : (setPause s).halted = s.halted := rfl
@[simp] theorem setPause_error (s : State) : (setPause s).error = s.error := rfl
@[simp] theorem setPause_ram (s : State) : (setPause s).ram = s.ram := rfl
@[simp] theorem setPause_loadAddr (s : State) : (setPause s).loadAddr = s.loadAddr := rfl
@[simp] theorem setPause_loadLane (s : State) : (setPause s).loadLane = s.loadLane := rfl
@[simp] theorem setPause_scb (s : State) : (setPause s).scb = s.scb := rfl
@[simp] theorem setPause_active (s : State) : (setPause s).active = s.active := rfl
@[simp] theorem setPause_qin (s : State) : (setPause s).qin = s.qin := rfl
@[simp] theorem setPause_qout (s : State) : (setPause s).qout = s.qout := rfl
@[simp] theorem setPause_phase (s : State) : (setPause s).phase = s.phase := rfl
@[simp] theorem setPause_pending (s : State) : (setPause s).pending = s.pending := rfl
@[simp] theorem setPause_irqLine (s : State) : (setPause s).irqLine = s.irqLine := rfl
@[simp] theorem setPause_sstat0 (s : State) : (setPause s).sstat0 = s.sstat0 := rfl
@[simp] theorem setPause_cfg (s : State) : (setPause s).cfg = s.cfg := rfl
@[simp] theorem setPause_inputs (s : State) : (setPause s).inputs = s.inputs := rfl
@[simp] theorem setPause_rdata (s : State) : (setPause s).rdata = s.rdata := rfl
@[simp] theorem setPause_edges (s : State) : (setPause s).edges = s.edges := rfl

/-! ### movePhase -/

@[simp] theorem movePhase_accum (p : Phase) (s : State) : (movePhase p s).accum = s.accum := rfl
@[simp] theorem movePhase_sindex (p : Phase) (s : State) : (movePhase p s).sindex = s.sindex := rfl
@[simp] theorem movePhase_dindex (p : Phase) (s : State) : (movePhase p s).dindex = s.dindex := rfl
@[simp] theorem movePhase_pc (p : Phase) (s : State) : (movePhase p s).pc = s.pc := rfl
@[simp] theorem movePhase_stack (p : Phase) (s : State) : (movePhase p s).stack = s.stack := rfl
@[simp] theorem movePhase_sp (p : Phase) (s : State) : (movePhase p s).sp = s.sp := rfl
@[simp] theorem movePhase_halted (p : Phase) (s : State) : (movePhase p s).halted = s.halted := rfl
@[simp] theorem movePhase_error (p : Phase) (s : State) : (movePhase p s).error = s.error := rfl
@[simp] theorem movePhase_ram (p : Phase) (s : State) : (movePhase p s).ram = s.ram := rfl
@[simp] theorem movePhase_loadAddr (p : Phase) (s : State) : (movePhase p s).loadAddr = s.loadAddr := rfl
@[simp] theorem movePhase_loadLane (p : Phase) (s : State) : (movePhase p s).loadLane = s.loadLane := rfl
@[simp] theorem movePhase_scb (p : Phase) (s : State) : (movePhase p s).scb = s.scb := rfl
@[simp] theorem movePhase_active (p : Phase) (s : State) : (movePhase p s).active = s.active := rfl
@[simp] theorem movePhase_qin (p : Phase) (s : State) : (movePhase p s).qin = s.qin := rfl
@[simp] theorem movePhase_qout (p : Phase) (s : State) : (movePhase p s).qout = s.qout := rfl
@[simp] theorem movePhase_pending (p : Phase) (s : State) : (movePhase p s).pending = s.pending := rfl
@[simp] theorem movePhase_irqLine (p : Phase) (s : State) : (movePhase p s).irqLine = s.irqLine := rfl
@[simp] theorem movePhase_regs (p : Phase) (s : State) : (movePhase p s).regs = s.regs := rfl
@[simp] theorem movePhase_cfg (p : Phase) (s : State) : (movePhase p s).cfg = s.cfg := rfl
@[simp] theorem movePhase_inputs (p : Phase) (s : State) : (movePhase p s).inputs = s.inputs := rfl
@[simp] theorem movePhase_rdata (p : Phase) (s : State) : (movePhase p s).rdata = s.rdata := rfl
@[simp] theorem movePhase_edges (p : Phase) (s : State) : (movePhase p s).edges = s.edges := rfl

/-! ### loadByte -/

@[simp] theorem loadByte_accum (v : Byte) (s : State) : (loadByte v s).accum = s.accum := rfl
@[simp] theorem loadByte_sindex (v : Byte) (s : State) : (loadByte v s).sindex = s.sindex := rfl
@[simp] theorem loadByte_dindex (v : Byte) (s : State) : (loadByte v s).dindex = s.dindex := rfl
@[simp] theorem loadByte_pc (v : Byte) (s : State) : (loadByte v s).pc = s.pc := rfl
@[simp] theorem loadByte_stack (v : Byte) (s : State) : (loadByte v s).stack = s.stack := rfl
@[simp] theorem loadByte_sp (v : Byte) (s : State) : (loadByte v s).sp = s.sp := rfl
@[simp] theorem loadByte_halted (v : Byte) (s : State) : (loadByte v s).halted = s.halted := rfl
@[simp] theorem loadByte_error (v : Byte) (s : State) : (loadByte v s).error = s.error := rfl
@[simp] theorem loadByte_scb (v : Byte) (s : State) : (loadByte v s).scb = s.scb := rfl
@[simp] theorem loadByte_active (v : Byte) (s : State) : (loadByte v s).active = s.active := rfl
@[simp] theorem loadByte_qin (v : Byte) (s : State) : (loadByte v s).qin = s.qin := rfl
@[simp] theorem loadByte_qout (v : Byte) (s : State) : (loadByte v s).qout = s.qout := rfl
@[simp] theorem loadByte_phase (v : Byte) (s : State) : (loadByte v s).phase = s.phase := rfl
@[simp] theorem loadByte_pending (v : Byte) (s : State) : (loadByte v s).pending = s.pending := rfl
@[simp] theorem loadByte_irqLine (v : Byte) (s : State) : (loadByte v s).irqLine = s.irqLine := rfl
@[simp] theorem loadByte_sstat0 (v : Byte) (s : State) : (loadByte v s).sstat0 = s.sstat0 := rfl
@[simp] theorem loadByte_regs (v : Byte) (s : State) : (loadByte v s).regs = s.regs := rfl
@[simp] theorem loadByte_cfg (v : Byte) (s : State) : (loadByte v s).cfg = s.cfg := rfl
@[simp] theorem loadByte_inputs (v : Byte) (s : State) : (loadByte v s).inputs = s.inputs := rfl
@[simp] theorem loadByte_rdata (v : Byte) (s : State) : (loadByte v s).rdata = s.rdata := rfl
@[simp] theorem loadByte_edges (v : Byte) (s : State) : (loadByte v s).edges = s.edges := rfl

/-! ### updateLine -/

@[simp] theorem updateLine_accum (s : State) : (updateLine s).accum = s.accum := by unfold updateLine; split <;> rfl
@[simp] theorem updateLine_sindex (s : State) : (updateLine s).sindex = s.sindex := by unfold updateLine; split <;> rfl
@[simp] theorem updateLine_dindex (s : State) : (updateLine s).dindex = s.dindex := by unfold updateLine; split <;> rfl
@[simp] theorem updateLine_pc (s : State) : (updateLine s).pc = s.pc := by unfold updateLine; split <;> rfl
@[simp] theorem updateLine_stack (s : State) : (updateLine s).stack = s.stack := by unfold updateLine; split <;> rfl
@[simp] theorem updateLine_sp (s : State) : (updateLine s).sp = s.sp := by unfold updateLine; split <;> rfl
@[simp] theorem updateLine_halted (s : State) : (updateLine s).halted = s.halted := by unfold updateLine; split <;> rfl
@[simp] theorem updateLine_error (s : State) : (updateLine s).error = s.error := by unfold updateLine; split <;> rfl
@[simp] theorem updateLine_ram (s : State) : (updateLine s).ram = s.ram := by unfold updateLine; split <;> rfl
@[simp] theorem updateLine_loadAddr (s : State) : (updateLine s).loadAddr = s.loadAddr := by unfold updateLine; split <;> rfl
@[simp] theorem updateLine_loadLane (s : State) : (updateLine s).loadLane = s.loadLane := by unfold updateLine; split <;> rfl
@[simp] theorem updateLine_scb (s : State) : (updateLine s).scb = s.scb := by unfold updateLine; split <;> rfl
@[simp] theorem updateLine_active (s : State) : (updateLine s).active = s.active := by unfold updateLine; split <;> rfl
@[simp] theorem updateLine_qin (s : State) : (updateLine s).qin = s.qin := by unfold updateLine; split <;> rfl
@[simp] theorem updateLine_qout (s : State) : (updateLine s).qout = s.qout := by unfold updateLine; split <;> rfl
@[simp] theorem updateLine_phase (s : State) : (updateLine s).phase = s.phase := by unfold updateLine; split <;> rfl
@[simp] theorem updateLine_pending (s : State) : (updateLine s).pending = s.pending := by unfold updateLine; split <;> rfl
@[simp] theorem updateLine_sstat0 (s : State) : (updateLine s).sstat0 = s.sstat0 := by unfold updateLine; split <;> rfl
@[simp] theorem updateLine_regs (s : State) : (updateLine s).regs = s.regs := by unfold updateLine; split <;> rfl
@[simp] theorem updateLine_cfg (s : State) : (updateLine s).cfg = s.cfg := by unfold updateLine; split <;> rfl
@[simp] theorem updateLine_inputs (s : State) : (updateLine s).inputs = s.inputs := by unfold updateLine; split <;> rfl
@[simp] theorem updateLine_rdata (s : State) : (updateLine s).rdata = s.rdata := by unfold updateLine; split <;> rfl

/-! ### raiseCause -/

@[simp] theorem raiseCause_accum (c : Cause) (s : State) : (raiseCause c s).accum = s.accum := by simp [raiseCause]
@[simp] theorem raiseCause_sindex (c : Cause) (s : State) : (raiseCause c s).sindex = s.sindex := by simp [raiseCause]
@[simp] theorem raiseCause_dindex (c : Cause) (s : State) : (raiseCause c s).dindex = s.dindex := by simp [raiseCause]
@[simp] theorem raiseCause_pc (c : Cause) (s : State) : (raiseCause c s).pc = s.pc := by simp [raiseCause]
@[simp] theorem raiseCause_stack (c : Cause) (s : State) : (raiseCause c s).stack = s.stack := by simp [raiseCause]
@[simp] theorem raiseCause_sp (c : Cause) (s : State) : (raiseCause c s).sp = s.sp := by simp [raiseCause]
@[simp] theorem raiseCause_halted (c : Cause) (s : State) : (raiseCause c s).halted = s.halted := by simp [raiseCause]
@[simp] theorem raiseCause_error (c : Cause) (s : State) : (raiseCause c s).error = s.error := by simp [raiseCause]
@[simp] theorem raiseCause_ram (c : Cause) (s : State) : (raiseCause c s).ram = s.ram := by simp [raiseCause]
@[simp] theorem raiseCause_loadAddr (c : Cause) (s : State) : (raiseCause c s).loadAddr = s.loadAddr := by simp [raiseCause]
@[simp] theorem raiseCause_loadLane (c : Cause) (s : State) : (raiseCause c s).loadLane = s.loadLane := by simp [raiseCause]
@[simp] theorem raiseCause_scb (c : Cause) (s : State) : (raiseCause c s).scb = s.scb := by simp [raiseCause]
@[simp] theorem raiseCause_active (c : Cause) (s : State) : (raiseCause c s).active = s.active := by simp [raiseCause]
@[simp] theorem raiseCause_qin (c : Cause) (s : State) : (raiseCause c s).qin = s.qin := by simp [raiseCause]
@[simp] theorem raiseCause_qout (c : Cause) (s : State) : (raiseCause c s).qout = s.qout := by simp [raiseCause]
@[simp] theorem raiseCause_phase (c : Cause) (s : State) : (raiseCause c s).phase = s.phase := by simp [raiseCause]
@[simp] theorem raiseCause_sstat0 (c : Cause) (s : State) : (raiseCause c s).sstat0 = s.sstat0 := by simp [raiseCause]
@[simp] theorem raiseCause_regs (c : Cause) (s : State) : (raiseCause c s).regs = s.regs := by simp [raiseCause]
@[simp] theorem raiseCause_cfg (c : Cause) (s : State) : (raiseCause c s).cfg = s.cfg := by simp [raiseCause]
@[simp] theorem raiseCause_inputs (c : Cause) (s : State) : (raiseCause c s).inputs = s.inputs := by simp [raiseCause]
@[simp] theorem raiseCause_rdata (c : Cause) (s : State) : (raiseCause c s).rdata = s.rdata := by simp [raiseCause]

/-! ### seqHalt -/

@[simp] theorem seqHalt_accum (s : State) : (seqHalt s).accum = s.accum := by simp [seqHalt]
@[simp] theorem seqHalt_sindex (s : State) : (seqHalt s).sindex = s.sindex := by simp [seqHalt]
@[simp] theorem seqHalt_dindex (s : State) : (seqHalt s).dindex = s.dindex := by simp [seqHalt]
@[simp] theorem seqHalt_pc (s : State) : (seqHalt s).pc = s.pc := by simp [seqHalt]
@[simp] theorem seqHalt_stack (s : State) : (seqHalt s).stack = s.stack := by simp [seqHalt]
@[simp] theorem seqHalt_sp (s : State) : (seqHalt s).sp = s.sp := by simp [seqHalt]
@[simp] theorem seqHalt_error (s : State) : (seqHalt s).error = s.error := by simp [seqHalt]
@[simp] theorem seqHalt_ram (s : State) : (seqHalt s).ram = s.ram := by simp [seqHalt]
@[simp] theorem seqHalt_loadAddr (s : State) : (seqHalt s).loadAddr = s.loadAddr := by simp [seqHalt]
@[simp] theorem seqHalt_loadLane (s : State) : (seqHalt s).loadLane = s.loadLane := by simp [seqHalt]
@[simp] theorem seqHalt_scb (s : State) : (seqHalt s).scb = s.scb := by simp [seqHalt]
@[simp] theorem seqHalt_active (s : State) : (seqHalt s).active = s.active := by simp [seqHalt]
@[simp] theorem seqHalt_qin (s : State) : (seqHalt s).qin = s.qin := by simp [seqHalt]
@[simp] theorem seqHalt_qout (s : State) : (seqHalt s).qout = s.qout := by simp [seqHalt]
@[simp] theorem seqHalt_phase (s : State) : (seqHalt s).phase = s.phase := by simp [seqHalt]
@[simp] theorem seqHalt_sstat0 (s : State) : (seqHalt s).sstat0 = s.sstat0 := by simp [seqHalt]
@[simp] theorem seqHalt_regs (s : State) : (seqHalt s).regs = s.regs := by simp [seqHalt]
@[simp] theorem seqHalt_cfg (s : State) : (seqHalt s).cfg = s.cfg := by simp [seqHalt]
@[simp] theorem seqHalt_inputs (s : State) : (seqHalt s).inputs = s.inputs := by simp [seqHalt]
@[simp] theorem seqHalt_rdata (s : State) : (seqHalt s).rdata = s.rdata := by simp [seqHalt]

/-! ### seqFault -/

@[simp] theorem seqFault_accum (f : SeqError) (s : State) : (seqFault f s).accum = s.accum := by simp [seqFault]
@[simp] theorem seqFault_sindex (f : SeqError) (s : State) : (seqFault f s).sindex = s.sindex := by simp [seqFault]
@[simp] theorem seqFault_dindex (f : SeqError) (s : State) : (seqFault f s).dindex = s.dindex := by simp [seqFault]
@[simp] theorem seqFault_pc (f : SeqError) (s : State) : (seqFault f s).pc = s.pc := by simp [seqFault]
@[simp] theorem seqFault_stack (f : SeqError) (s : State) : (seqFault f s).stack = s.stack := by simp [seqFault]
@[simp] theorem seqFault_sp (f : SeqError) (s : State) : (seqFault f s).sp = s.sp := by simp [seqFault]
@[simp] theorem seqFault_ram (f : SeqError) (s : State) : (seqFault f s).ram = s.ram := by simp [seqFault]
@[simp] theorem seqFault_loadAddr (f : SeqError) (s : State) : (seqFault f s).loadAddr = s.loadAddr := by simp [seqFault]
@[simp] theorem seqFault_loadLane (f : SeqError) (s : State) : (seqFault f s).loadLane = s.loadLane := by simp [seqFault]
@[simp] theorem seqFault_scb (f : SeqError) (s : State) : (seqFault f s).scb = s.scb := by simp [seqFault]
@[simp] theorem seqFault_active (f : SeqError) (s : State) : (seqFault f s).active = s.active := by simp [seqFault]
@[simp] theorem seqFault_qin (f : SeqError) (s : State) : (seqFault f s).qin = s.qin := by simp [seqFault]
@[simp] theorem seqFault_qout (f : SeqError) (s : State) : (seqFault f s).qout = s.qout := by simp [seqFault]
@[simp] theorem seqFault_phase (f : SeqError) (s : State) : (seqFault f s).phase = s.phase := by simp [seqFault]
@[simp] theorem seqFault_sstat0 (f : SeqError) (s : State) : (seqFault f s).sstat0 = s.sstat0 := by simp [seqFault]
@[simp] theorem seqFault_regs (f : SeqError) (s : State) : (seqFault f s).regs = s.regs := by simp [seqFault]
@[simp] theorem seqFault_cfg (f : SeqError) (s : State) : (seqFault f s).cfg = s.cfg := by simp [seqFault]
@[simp] theorem seqFault_inputs (f : SeqError) (s : State) : (seqFault f s).inputs = s.inputs := by simp [seqFault]
@[simp] theorem seqFault_rdata (f : SeqError) (s : State) : (seqFault f s).rdata = s.rdata := by simp [seqFault]

/-! ### forceBusFree -/

@[simp] theorem forceBusFree_accum (s : State) : (forceBusFree s).accum = s.accum := by unfold forceBusFree; split <;> rfl
@[simp] theorem forceBusFree_sindex (s : State) : (forceBusFree s).sindex = s.sindex := by unfold forceBusFree; split <;> rfl
@[simp] theorem forceBusFree_dindex (s : State) : (forceBusFree s).dindex = s.dindex := by unfold forceBusFree; split <;> rfl
@[simp] theorem forceBusFree_pc (s : State) : (forceBusFree s).pc = s.pc := by unfold forceBusFree; split <;> rfl
@[simp] theorem forceBusFree_stack (s : State) : (forceBusFree s).stack = s.stack := by unfold forceBusFree; split <;> rfl
@[simp] theorem forceBusFree_sp (s : State) : (forceBusFree s).sp = s.sp := by unfold forceBusFree; split <;> rfl
@[simp] theorem forceBusFree_halted (s : State) : (forceBusFree s).halted = s.halted := by unfold forceBusFree; split <;> rfl
@[simp] theorem forceBusFree_error (s : State) : (forceBusFree s).error = s.error := by unfold forceBusFree; split <;> rfl
@[simp] theorem forceBusFree_ram (s : State) : (forceBusFree s).ram = s.ram := by unfold forceBusFree; split <;> rfl
@[simp] theorem forceBusFree_loadAddr (s : State) : (forceBusFree s).loadAddr = s.loadAddr := by unfold forceBusFree; split <;> rfl
@[simp] theorem forceBusFree_loadLane (s : State) : (forceBusFree s).loadLane = s.loadLane := by unfold forceBusFree; split <;> rfl
@[simp] theorem forceBusFree_scb (s : State) : (forceBusFree s).scb = s.scb := by unfold forceBusFree; split <;> rfl
@[simp] theorem forceBusFree_active (s : State) : (forceBusFree s).active = s.active := by unfold forceBusFree; split <;> rfl
@[simp] theorem forceBusFree_qin (s : State) : (forceBusFree s).qin = s.qin := by unfold forceBusFree; split <;> rfl
@[simp] theorem forceBusFree_qout (s : State) : (forceBusFree s).qout = s.qout := by unfold forceBusFree; split <;> rfl
@[simp] theorem forceBusFree_pending (s : State) : (forceBusFree s).pending = s.pending := by unfold forceBusFree; split <;> rfl
@[simp] theorem forceBusFree_irqLine (s : State) : (forceBusFree s).irqLine = s.irqLine := by unfold forceBusFree; split <;> rfl
@[simp] theorem forceBusFree_regs (s : State) : (forceBusFree s).regs = s.regs := by unfold forceBusFree; split <;> rfl
@[simp] theorem forceBusFree_cfg (s : State) : (forceBusFree s).cfg = s.cfg := by unfold forceBusFree; split <;> rfl
@[simp] theorem forceBusFree_inputs (s : State) : (forceBusFree s).inputs = s.inputs := by unfold forceBusFree; split <;> rfl
@[simp] theorem forceBusFree_rdata (s : State) : (forceBusFree s).rdata = s.rdata := by unfold forceBusFree; split <;> rfl
@[simp] theorem forceBusFree_edges (s : State) : (forceBusFree s).edges = s.edges := by unfold forceBusFree; split <;> rfl

/-! ### phaseRequest -/

@[simp] theorem phaseRequest_accum (p : Phase) (s : State) : (phaseRequest p s).accum = s.accum := by unfold phaseRequest; split <;> [rfl; (split <;> simp)]
@[simp] theorem phaseRequest_sindex (p : Phase) (s : State) : (phaseRequest p s).sindex = s.sindex := by unfold phaseRequest; split <;> [rfl; (split <;> simp)]
@[simp] theorem phaseRequest_dindex (p : Phase) (s : State) : (phaseRequest p s).dindex = s.dindex := by unfold phaseRequest; split <;> [rfl; (split <;> simp)]
@[simp] theorem phaseRequest_pc (p : Phase) (s : State) : (phaseRequest p s).pc = s.pc := by unfold phaseRequest; split <;> [rfl; (split <;> simp)]
@[simp] theorem phaseRequest_stack (p : Phase) (s : State) : (phaseRequest p s).stack = s.stack := by unfold phaseRequest; split <;> [rfl; (split <;> simp)]
@[simp] theorem phaseRequest_sp (p : Phase) (s : State) : (phaseRequest p s).sp = s.sp := by unfold phaseRequest; split <;> [rfl; (split <;> simp)]
@[simp] theorem phaseRequest_ram (p : Phase) (s : State) : (phaseRequest p s).ram = s.ram := by unfold phaseRequest; split <;> [rfl; (split <;> simp)]
@[simp] theorem phaseRequest_loadAddr (p : Phase) (s : State) : (phaseRequest p s).loadAddr = s.loadAddr := by unfold phaseRequest; split <;> [rfl; (split <;> simp)]
@[simp] theorem phaseRequest_loadLane (p : Phase) (s : State) : (phaseRequest p s).loadLane = s.loadLane := by unfold phaseRequest; split <;> [rfl; (split <;> simp)]
@[simp] theorem phaseRequest_scb (p : Phase) (s : State) : (phaseRequest p s).scb = s.scb := by unfold phaseRequest; split <;> [rfl; (split <;> simp)]
@[simp] theorem phaseRequest_active (p : Phase) (s : State) : (phaseRequest p s).active = s.active := by unfold phaseRequest; split <;> [rfl; (split <;> simp)]
@[simp] theorem phaseRequest_qin (p : Phase) (s : State) : (phaseRequest p s).qin = s.qin := by unfold phaseRequest; split <;> [rfl; (split <;> simp)]
@[simp] theorem phaseRequest_qout (p : Phase) (s : State) : (phaseRequest p s).qout = s.qout := by unfold phaseRequest; split <;> [rfl; (split <;> simp)]
@[simp] theorem phaseRequest_regs (p : Phase) (s : State) : (phaseRequest p s).regs = s.regs := by unfold phaseRequest; split <;> [rfl; (split <;> simp)]
@[simp] theorem phaseRequest_cfg (p : Phase) (s : State) : (phaseRequest p s).cfg = s.cfg := by unfold phaseRequest; split <;> [rfl; (split <;> simp)]
@[simp] theorem phaseRequest_inputs (p : Phase) (s : State) : (phaseRequest p s).inputs = s.inputs := by unfold phaseRequest; split <;> [rfl; (split <;> simp)]
@[simp] theorem phaseRequest_rdata (p : Phase) (s : State) : (phaseRequest p s).rdata = s.rdata := by unfold phaseRequest; split <;> [rfl; (split <;> simp)]

/-! ### singleStepPause -/

@[simp] theorem singleStepPause_accum (s : State) : (singleStepPause s).accum = s.accum := by unfold singleStepPause; split <;> [rfl; (split <;> rfl)]
@[simp] theorem singleStepPause_sindex (s : State) : (singleStepPause s).sindex = s.sindex := by unfold singleStepPause; split <;> [rfl; (split <;> rfl)]
@[simp] theorem singleStepPause_dindex (s : State) : (singleStepPause s).dindex = s.dindex := by unfold singleStepPause; split <;> [rfl; (split <;> rfl)]
@[simp] theorem singleStepPause_pc (s : State) : (singleStepPause s).pc = s.pc := by unfold singleStepPause; split <;> [rfl; (split <;> rfl)]
@[simp] theorem singleStepPause_stack (s : State) : (singleStepPause s).stack = s.stack := by unfold singleStepPause; split <;> [rfl; (split <;> rfl)]
@[simp] theorem singleStepPause_sp (s : State) : (singleStepPause s).sp = s.sp := by unfold singleStepPause; split <;> [rfl; (split <;> rfl)]
@[simp] theorem singleStepPause_halted (s : State) : (singleStepPause s).halted = s.halted := by unfold singleStepPause; split <;> [rfl; (split <;> rfl)]
@[simp] theorem singleStepPause_error (s : State) : (singleStepPause s).error = s.error := by unfold singleStepPause; split <;> [rfl; (split <;> rfl)]
@[simp] theorem singleStepPause_ram (s : State) : (singleStepPause s).ram = s.ram := by unfold singleStepPause; split <;> [rfl; (split <;> rfl)]
@[simp] theorem singleStepPause_loadAddr (s : State) : (singleStepPause s).loadAddr = s.loadAddr := by unfold singleStepPause; split <;> [rfl; (split <;> rfl)]
@[simp] theorem singleStepPause_loadLane (s : State) : (singleStepPause s).loadLane = s.loadLane := by unfold singleStepPause; split <;> [rfl; (split <;> rfl)]
@[simp] theorem singleStepPause_scb (s : State) : (singleStepPause s).scb = s.scb := by unfold singleStepPause; split <;> [rfl; (split <;> rfl)]
@[simp] theorem singleStepPause_active (s : State) : (singleStepPause s).active = s.active := by unfold singleStepPause; split <;> [rfl; (split <;> rfl)]
@[simp] theorem singleStepPause_qin (s : State) : (singleStepPause s).qin = s.qin := by unfold singleStepPause; split <;> [rfl; (split <;> rfl)]
@[simp] theorem singleStepPause_qout (s : State) : (singleStepPause s).qout = s.qout := by unfold singleStepPause; split <;> [rfl; (split <;> rfl)]
@[simp] theorem singleStepPause_phase (s : State) : (singleStepPause s).phase = s.phase := by unfold singleStepPause; split <;> [rfl; (split <;> rfl)]
@[simp] theorem singleStepPause_pending (s : State) : (singleStepPause s).pending = s.pending := by unfold singleStepPause; split <;> [rfl; (split <;> rfl)]
@[simp] theorem singleStepPause_irqLine (s : State) : (singleStepPause s).irqLine = s.irqLine := by unfold singleStepPause; split <;> [rfl; (split <;> rfl)]
@[simp] theorem singleStepPause_sstat0 (s : State) : (singleStepPause s).sstat0 = s.sstat0 := by unfold singleStepPause; split <;> [rfl; (split <;> rfl)]
@[simp] theorem singleStepPause_cfg (s : State) : (singleStepPause s).cfg = s.cfg := by unfold singleStepPause; split <;> [rfl; (split <;> rfl)]
@[simp] theorem singleStepPause_inputs (s : State) : (singleStepPause s).inputs = s.inputs := by unfold singleStepPause; split <;> [rfl; (split <;> rfl)]
@[simp] theorem singleStepPause_rdata (s : State) : (singleStepPause s).rdata = s.rdata := by unfold singleStepPause; split <;> [rfl; (split <;> rfl)]
@[simp] theorem singleStepPause_edges (s : State) : (singleStepPause s).edges = s.edges := by unfold singleStepPause; split <;> [rfl; (split <;> rfl)]

/-! ### seqReset -/

@[simp] theorem seqReset_accum (s : State) : (seqReset s).accum = s.accum := by unfold seqReset; split <;> rfl
@[simp] theorem seqReset_sindex (s : State) : (seqReset s).sindex = s.sindex := by unfold seqReset; split <;> rfl
@[simp] theorem seqReset_dindex (s : State) : (seqReset s).dindex = s.dindex := by unfold seqReset; split <;> rfl
@[simp] theorem seqReset_stack (s : State) : (seqReset s).stack = s.stack := by unfold seqReset; split <;> rfl
@[simp] theorem seqReset_halted (s : State) : (seqReset s).halted = s.halted := by unfold seqReset; split <;> rfl
@[simp] theorem seqReset_error (s : State) : (seqReset s).error = s.error := by unfold seqReset; split <;> rfl
@[simp] theorem seqReset_ram (s : State) : (seqReset s).ram = s.ram := by unfold seqReset; split <;> rfl
@[simp] theorem seqReset_loadAddr (s : State) : (seqReset s).loadAddr = s.loadAddr := by unfold seqReset; split <;> rfl
@[simp] theorem seqReset_loadLane (s : State) : (seqReset s).loadLane = s.loadLane := by unfold seqReset; split <;> rfl
@[simp] theorem seqReset_scb (s : State) : (seqReset s).scb = s.scb := by unfold seqReset; split <;> rfl
@[simp] theorem seqReset_active (s : State) : (seqReset s).active = s.active := by unfold seqReset; split <;> rfl
@[simp] theorem seqReset_qin (s : State) : (seqReset s).qin = s.qin := by unfold seqReset; split <;> rfl
@[simp] theorem seqReset_qout (s : State) : (seqReset s).qout = s.qout := by unfold seqReset; split <;> rfl
@[simp] theorem seqReset_phase (s : State) : (seqReset s).phase = s.phase := by unfold seqReset; split <;> rfl
@[simp] theorem seqReset_pending (s : State) : (seqReset s).pending = s.pending := by unfold seqReset; split <;> rfl
@[simp] theorem seqReset_irqLine (s : State) : (seqReset s).irqLine = s.irqLine := by unfold seqReset; split <;> rfl
@[simp] theorem seqReset_sstat0 (s : State) : (seqReset s).sstat0 = s.sstat0 := by unfold seqReset; split <;> rfl
@[simp] theorem seqReset_regs (s : State) : (seqReset s).regs = s.regs := by unfold seqReset; split <;> rfl
@[simp] theorem seqReset_cfg (s : State) : (seqReset s).cfg = s.cfg := by unfold seqReset; split <;> rfl
@[simp] theorem seqReset_inputs (s : State) : (seqReset s).inputs = s.inputs := by unfold seqReset; split <;> rfl
@[simp] theorem seqReset_rdata (s : State) : (seqReset s).rdata = s.rdata := by unfold seqReset; split <;> rfl
@[simp] theorem seqReset_edges (s : State) : (seqReset s).edges = s.edges := by unfold seqReset; split <;> rfl

/-! ### writeSeqAddr -/

@[simp] theorem writeSeqAddr_accum (f : SeqAddr → SeqAddr) (s : State) : (writeSeqAddr f s).accum = s.accum := by unfold writeSeqAddr; split <;> [rfl; (split <;> rfl)]
@[simp] theorem writeSeqAddr_sindex (f : SeqAddr → SeqAddr) (s : State) : (writeSeqAddr f s).sindex = s.sindex := by unfold writeSeqAddr; split <;> [rfl; (split <;> rfl)]
@[simp] theorem writeSeqAddr_dindex (f : SeqAddr → SeqAddr) (s : State) : (writeSeqAddr f s).dindex = s.dindex := by unfold writeSeqAddr; split <;> [rfl; (split <;> rfl)]
@[simp] theorem writeSeqAddr_stack (f : SeqAddr → SeqAddr) (s : State) : (writeSeqAddr f s).stack = s.stack := by unfold writeSeqAddr; split <;> [rfl; (split <;> rfl)]
@[simp] theorem writeSeqAddr_sp (f : SeqAddr → SeqAddr) (s : State) : (writeSeqAddr f s).sp = s.sp := by unfold writeSeqAddr; split <;> [rfl; (split <;> rfl)]
@[simp] theorem writeSeqAddr_halted (f : SeqAddr → SeqAddr) (s : State) : (writeSeqAddr f s).halted = s.halted := by unfold writeSeqAddr; split <;> [rfl; (split <;> rfl)]
@[simp] theorem writeSeqAddr_error (f : SeqAddr → SeqAddr) (s : State) : (writeSeqAddr f s).error = s.error := by unfold writeSeqAddr; split <;> [rfl; (split <;> rfl)]
@[simp] theorem writeSeqAddr_ram (f : SeqAddr → SeqAddr) (s : State) : (writeSeqAddr f s).ram = s.ram := by unfold writeSeqAddr; split <;> [rfl; (split <;> rfl)]
@[simp] theorem writeSeqAddr_scb (f : SeqAddr → SeqAddr) (s : State) : (writeSeqAddr f s).scb = s.scb := by unfold writeSeqAddr; split <;> [rfl; (split <;> rfl)]
@[simp] theorem writeSeqAddr_active (f : SeqAddr → SeqAddr) (s : State) : (writeSeqAddr f s).active = s.active := by unfold writeSeqAddr; split <;> [rfl; (split <;> rfl)]
@[simp] theorem writeSeqAddr_qin (f : SeqAddr → SeqAddr) (s : State) : (writeSeqAddr f s).qin = s.qin := by unfold writeSeqAddr; split <;> [rfl; (split <;> rfl)]
@[simp] theorem writeSeqAddr_qout (f : SeqAddr → SeqAddr) (s : State) : (writeSeqAddr f s).qout = s.qout := by unfold writeSeqAddr; split <;> [rfl; (split <;> rfl)]
@[simp] theorem writeSeqAddr_phase (f : SeqAddr → SeqAddr) (s : State) : (writeSeqAddr f s).phase = s.phase := by unfold writeSeqAddr; split <;> [rfl; (split <;> rfl)]
@[simp] theorem writeSeqAddr_pending (f : SeqAddr → SeqAddr) (s : State) : (writeSeqAddr f s).pending = s.pending := by unfold writeSeqAddr; split <;> [rfl; (split <;> rfl)]
@[simp] theorem writeSeqAddr_irqLine (f : SeqAddr → SeqAddr) (s : State) : (writeSeqAddr f s).irqLine = s.irqLine := by unfold writeSeqAddr; split <;> [rfl; (split <;> rfl)]
@[simp] theorem writeSeqAddr_sstat0 (f : SeqAddr → SeqAddr) (s : State) : (writeSeqAddr f s).sstat0 = s.sstat0 := by unfold writeSeqAddr; split <;> [rfl; (split <;> rfl)]
@[simp] theorem writeSeqAddr_regs (f : SeqAddr → SeqAddr) (s : State) : (writeSeqAddr f s).regs = s.regs := by unfold writeSeqAddr; split <;> [rfl; (split <;> rfl)]
@[simp] theorem writeSeqAddr_cfg (f : SeqAddr → SeqAddr) (s : State) : (writeSeqAddr f s).cfg = s.cfg := by unfold writeSeqAddr; split <;> [rfl; (split <;> rfl)]
@[simp] theorem writeSeqAddr_inputs (f : SeqAddr → SeqAddr) (s : State) : (writeSeqAddr f s).inputs = s.inputs := by unfold writeSeqAddr; split <;> [rfl; (split <;> rfl)]
@[simp] theorem writeSeqAddr_rdata (f : SeqAddr → SeqAddr) (s : State) : (writeSeqAddr f s).rdata = s.rdata := by unfold writeSeqAddr; split <;> [rfl; (split <;> rfl)]
@[simp] theorem writeSeqAddr_edges (f : SeqAddr → SeqAddr) (s : State) : (writeSeqAddr f s).edges = s.edges := by unfold writeSeqAddr; split <;> [rfl; (split <;> rfl)]

/-! ### enqueueInput -/

@[simp] theorem enqueueInput_accum (v : Byte) (s : State) : (enqueueInput v s).accum = s.accum := by unfold enqueueInput; split <;> rfl
@[simp] theorem enqueueInput_sindex (v : Byte) (s : State) : (enqueueInput v s).sindex = s.sindex := by unfold enqueueInput; split <;> rfl
@[simp] theorem enqueueInput_dindex (v : Byte) (s : State) : (enqueueInput v s).dindex = s.dindex := by unfold enqueueInput; split <;> rfl
@[simp] theorem enqueueInput_pc (v : Byte) (s : State) : (enqueueInput v s).pc = s.pc := by unfold enqueueInput; split <;> rfl
@[simp] theorem enqueueInput_stack (v : Byte) (s : State) : (enqueueInput v s).stack = s.stack := by unfold enqueueInput; split <;> rfl
@[simp] theorem enqueueInput_sp (v : Byte) (s : State) : (enqueueInput v s).sp = s.sp := by unfold enqueueInput; split <;> rfl
@[simp] theorem enqueueInput_halted (v : Byte) (s : State) : (enqueueInput v s).halted = s.halted := by unfold enqueueInput; split <;> rfl
@[simp] theorem enqueueInput_error (v : Byte) (s : State) : (enqueueInput v s).error = s.error := by unfold enqueueInput; split <;> rfl
@[simp] theorem enqueueInput_ram (v : Byte) (s : State) : (enqueueInput v s).ram = s.ram := by unfold enqueueInput; split <;> rfl
@[simp] theorem enqueueInput_loadAddr (v : Byte) (s : State) : (enqueueInput v s).loadAddr = s.loadAddr := by unfold enqueueInput; split <;> rfl
@[simp] theorem enqueueInput_loadLane (v : Byte) (s : State) : (enqueueInput v s).loadLane = s.loadLane := by unfold enqueueInput; split <;> rfl
@[simp] theorem enqueueInput_scb (v : Byte) (s : State) : (enqueueInput v s).scb = s.scb := by unfold enqueueInput; split <;> rfl
@[simp] theorem enqueueInput_active (v : Byte) (s : State) : (enqueueInput v s).active = s.active := by unfold enqueueInput; split <;> rfl
@[simp] theorem enqueueInput_qout (v : Byte) (s : State) : (enqueueInput v s).qout = s.qout := by unfold enqueueInput; split <;> rfl
@[simp] theorem enqueueInput_phase (v : Byte) (s : State) : (enqueueInput v s).phase = s.phase := by unfold enqueueInput; split <;> rfl
@[simp] theorem enqueueInput_pending (v : Byte) (s : State) : (enqueueInput v s).pending = s.pending := by unfold enqueueInput; split <;> rfl
@[simp] theorem enqueueInput_irqLine (v : Byte) (s : State) : (enqueueInput v s).irqLine = s.irqLine := by unfold enqueueInput; split <;> rfl
@[simp] theorem enqueueInput_regs (v : Byte) (s : State) : (enqueueInput v s).regs = s.regs := by unfold enqueueInput; split <;> rfl
@[simp] theorem enqueueInput_cfg (v : Byte) (s : State) : (enqueueInput v s).cfg = s.cfg := by unfold enqueueInput; split <;> rfl
@[simp] theorem enqueueInput_inputs (v : Byte) (s : State) : (enqueueInput v s).inputs = s.inputs := by unfold enqueueInput; split <;> rfl
@[simp] theorem enqueueInput_rdata (v : Byte) (s : State) : (enqueueInput v s).rdata = s.rdata := by unfold enqueueInput; split <;> rfl
@[simp] theorem enqueueInput_edges (v : Byte) (s : State) : (enqueueInput v s).edges = s.edges := by unfold enqueueInput; split <;> rfl

/-! ### The fields they set -/

@[simp] theorem answerByte_rdata (v : Byte) (s : State) : (answerByte v s).rdata = [v] := rfl
@[simp] theorem setPause_regs (s : State) :
    (setPause s).regs = { s.regs with hcntrl := s.regs.hcntrl ||| 0x04#8 } := rfl
@[simp] theorem movePhase_phase (p : Phase) (s : State) : (movePhase p s).phase = p := rfl
@[simp] theorem movePhase_sstat0 (p : Phase) (s : State) :
    (movePhase p s).sstat0 = { s.sstat0 with phasechg := true, busfree := s.sstat0.busfree || p == .busFree } := rfl
@[simp] theorem loadByte_ram (v : Byte) (s : State) :
    (loadByte v s).ram = ramWriteLane s.ram s.loadAddr s.loadLane v := rfl
@[simp] theorem loadByte_loadLane (v : Byte) (s : State) : (loadByte v s).loadLane = s.loadLane + 1 := rfl
@[simp] theorem loadByte_loadAddr (v : Byte) (s : State) :
    (loadByte v s).loadAddr = if s.loadLane = 3 then s.loadAddr + 1 else s.loadAddr := rfl
@[simp] theorem updateLine_irqLine (s : State) : (updateLine s).irqLine = s.lineValue := by
  unfold updateLine; split
  · exact (by assumption : s.lineValue = s.irqLine).symm
  · rfl
theorem updateLine_edges (s : State) :
    (updateLine s).edges = if s.lineValue = s.irqLine then s.edges else s.lineValue :: s.edges := by
  unfold updateLine; split <;> rfl
@[simp] theorem raiseCause_pending (c : Cause) (s : State) :
    (raiseCause c s).pending = s.pending.set c true := by simp [raiseCause]
@[simp] theorem seqHalt_halted (s : State) : (seqHalt s).halted = true := by simp [seqHalt]
@[simp] theorem seqHalt_pending (s : State) : (seqHalt s).pending = s.pending.set .brkadrint true := by
  simp [seqHalt]
@[simp] theorem seqFault_error (f : SeqError) (s : State) : (seqFault f s).error = s.error.mark f := by
  simp [seqFault]
@[simp] theorem seqFault_halted (f : SeqError) (s : State) : (seqFault f s).halted = true := by simp [seqFault]
@[simp] theorem seqFault_pending (f : SeqError) (s : State) :
    (seqFault f s).pending = s.pending.set .brkadrint true := by simp [seqFault]
@[simp] theorem forceBusFree_phase (s : State) : (forceBusFree s).phase = .busFree := by
  unfold forceBusFree; split <;> simp_all
@[simp] theorem singleStepPause_regs (s : State) :
    (singleStepPause s).regs =
      if !s.halted && s.stepBit then { s.regs with hcntrl := s.regs.hcntrl ||| 0x04#8 } else s.regs := by
  unfold singleStepPause; cases h : s.halted <;> cases h' : s.stepBit <;> simp [setPause]

/-! ### The reset operation -/

@[simp] theorem resetOp_cfg (s : State) : (resetOp s).cfg = s.cfg := rfl
@[simp] theorem resetOp_inputs (s : State) : (resetOp s).inputs = s.inputs := rfl
@[simp] theorem resetOp_rdata (s : State) : (resetOp s).rdata = s.rdata := rfl
@[simp] theorem resetOp_edges (s : State) :
    (resetOp s).edges = if s.irqLine then false :: s.edges else s.edges := rfl
@[simp] theorem resetOp_accum (s : State) : (resetOp s).accum = State.reset.accum := rfl
@[simp] theorem resetOp_sindex (s : State) : (resetOp s).sindex = State.reset.sindex := rfl
@[simp] theorem resetOp_dindex (s : State) : (resetOp s).dindex = State.reset.dindex := rfl
@[simp] theorem resetOp_pc (s : State) : (resetOp s).pc = State.reset.pc := rfl
@[simp] theorem resetOp_stack (s : State) : (resetOp s).stack = State.reset.stack := rfl
@[simp] theorem resetOp_sp (s : State) : (resetOp s).sp = State.reset.sp := rfl
@[simp] theorem resetOp_halted (s : State) : (resetOp s).halted = State.reset.halted := rfl
@[simp] theorem resetOp_error (s : State) : (resetOp s).error = State.reset.error := rfl
@[simp] theorem resetOp_ram (s : State) : (resetOp s).ram = State.reset.ram := rfl
@[simp] theorem resetOp_loadAddr (s : State) : (resetOp s).loadAddr = State.reset.loadAddr := rfl
@[simp] theorem resetOp_loadLane (s : State) : (resetOp s).loadLane = State.reset.loadLane := rfl
@[simp] theorem resetOp_scb (s : State) : (resetOp s).scb = State.reset.scb := rfl
@[simp] theorem resetOp_active (s : State) : (resetOp s).active = State.reset.active := rfl
@[simp] theorem resetOp_qin (s : State) : (resetOp s).qin = State.reset.qin := rfl
@[simp] theorem resetOp_qout (s : State) : (resetOp s).qout = State.reset.qout := rfl
@[simp] theorem resetOp_phase (s : State) : (resetOp s).phase = State.reset.phase := rfl
@[simp] theorem resetOp_pending (s : State) : (resetOp s).pending = State.reset.pending := rfl
@[simp] theorem resetOp_irqLine (s : State) : (resetOp s).irqLine = State.reset.irqLine := rfl
@[simp] theorem resetOp_sstat0 (s : State) : (resetOp s).sstat0 = State.reset.sstat0 := rfl
@[simp] theorem resetOp_regs (s : State) : (resetOp s).regs = State.reset.regs := rfl

end Sys2Proof.Machine
end

