-- ==== Sys2Proof/Laws/Ops.lean ====
section
/-! SUPPORT. One inversion lemma per shared operation: all that it can do when it answers a next state. -/

namespace Sys2Proof.Machine

/-- What a phase request does. -/
theorem phaseRequest_cases (p : Phase) (s : State) :
    (p = s.phase ∧ phaseRequest p s = s) ∨
    (p ≠ s.phase ∧ legal s.phase p = true ∧ phaseRequest p s = movePhase p s) ∨
    (p ≠ s.phase ∧ legal s.phase p = false ∧ phaseRequest p s = seqFault .illphase (forceBusFree s)) := by
  unfold phaseRequest
  by_cases h : p = s.phase
  · exact .inl ⟨h, by simp [h]⟩
  · cases hl : legal s.phase p
    · exact .inr (.inr ⟨h, rfl, by simp [h]⟩)
    · exact .inr (.inl ⟨h, rfl, by simp [h]⟩)

/-- What a completion does: outside a full output FIFO it pushes, frees the slot in flight and raises CMDCMPLT. -/
theorem complete_eq_next {i : Byte} {s : State} (h : s.qoutFull = false) :
    complete i s = .next (raiseCause .cmdcmplt (phaseRequest .busFree
      { s with scb := Memory.write s.scb (scbAddr i 3) goodStatus, qout := s.qout ++ [i], active := none })) := by
  simp [complete, h]

/-- All that the progress action can do. -/
theorem progress_cases {s t : State} (h : progress s = .next t) :
    (∃ i rest, s.active = none ∧ s.qin = i :: rest ∧
      t = phaseRequest .arbitration { s with qin := rest, active := some i }) ∨
    (∃ i, s.active = some i ∧ s.phase = .msgIn ∧ s.qoutFull = false ∧
      t = raiseCause .cmdcmplt (phaseRequest .busFree
        { s with scb := Memory.write s.scb (scbAddr i 3) goodStatus, qout := s.qout ++ [i], active := none })) ∨
    (∃ i, s.active = some i ∧ s.phase ≠ .msgIn ∧ t = phaseRequest (nextPhase s.scb i s.phase) s) := by
  unfold progress at h
  cases ha : s.active with
  | none =>
    rw [ha] at h
    cases hq : s.qin with
    | nil => rw [hq] at h; simp at h
    | cons i rest =>
      rw [hq] at h
      simp only [Host.Outcome.next.injEq] at h
      exact .inl ⟨i, rest, rfl, rfl, h.symm⟩
  | some i =>
    rw [ha] at h
    by_cases hp : s.phase = .msgIn
    · cases hf : s.qoutFull
      · simp only [if_pos hp, complete_eq_next hf, Host.Outcome.next.injEq] at h
        exact .inr (.inl ⟨i, rfl, hp, rfl, h.symm⟩)
      · simp [hp, complete, hf] at h
    · simp only [hp, if_false, Host.Outcome.next.injEq] at h
      exact .inr (.inr ⟨i, rfl, hp, h.symm⟩)

/-- With work and no stall the progress action answers a next state. -/
theorem progress_isNext {s : State} (hw : s.hasWork = true) (hs : s.stalled = false) :
    ∃ t, progress s = .next t := by
  unfold progress
  cases ha : s.active with
  | none =>
    cases hq : s.qin with
    | nil => simp [State.hasWork, ha, hq] at hw
    | cons i rest => exact ⟨_, rfl⟩
  | some i =>
    by_cases hp : s.phase = .msgIn
    · have hf : s.qoutFull = false := by simpa [State.stalled, ha, hp] using hs
      exact ⟨_, by simp only [hp, if_true]; exact complete_eq_next hf⟩
    · exact ⟨phaseRequest (nextPhase s.scb i s.phase) s, by simp only [hp, if_false]⟩

/-- A retirement is a progress action and then the single-step pause. -/
theorem retire_cases {s t : State} (h : retire s = .next t) :
    ∃ u, progress s = .next u ∧ t = singleStepPause u := by
  unfold retire at h
  cases hp : progress s with
  | next u => rw [hp] at h; simp only [Host.Outcome.next.injEq] at h; exact ⟨u, rfl, h.symm⟩
  | fault r => rw [hp] at h; simp at h
  | refused r => rw [hp] at h; simp at h

theorem retire_of_progress {s u : State} (h : progress s = .next u) : retire s = .next (singleStepPause u) := by
  unfold retire; rw [h]

theorem retire_isNext {s : State} (hw : s.hasWork = true) (hs : s.stalled = false) : ∃ t, retire s = .next t := by
  obtain ⟨u, hu⟩ := progress_isNext hw hs
  exact ⟨_, retire_of_progress hu⟩

/-- The parts of the engine's enabling condition. -/
theorem canStep_iff (s : State) :
    s.canStep = true ↔
      s.halted = false ∧ s.pause = false ∧ s.loadram = false ∧ s.hasWork = true ∧ s.stalled = false := by
  simp [State.canStep, and_assoc]

/-- A retirement does nothing but progress and the pause: what it keeps. -/
theorem retire_keeps {s t : State} (h : retire s = .next t) :
    t.pc = s.pc ∧ t.stack = s.stack ∧ t.sp = s.sp := by
  obtain ⟨u, hu, rfl⟩ := retire_cases h
  rcases progress_cases hu with ⟨i, rest, _, _, rfl⟩ | ⟨i, _, _, _, rfl⟩ | ⟨i, _, _, rfl⟩ <;> simp

end Sys2Proof.Machine
end

