-- ==== Sys2Proof/Laws/Engine.lean ====
section
/-! SUPPORT. All that one step can do: which instructions each decoder yields, and the cases of an engine step and of an
accepted input. -/

namespace Sys2Proof

/-- The nine sequencer instructions. -/
def Instr.isSequencer : Instr → Bool
  | .opaqueWord _ => true
  | .jmp _ => true
  | .jz _ _ => true
  | .jnz _ _ => true
  | .call _ => true
  | .je _ _ => true
  | .jne _ _ => true
  | .ret => true
  | .halt => true
  | _ => false

/-- A word decodes to a sequencer instruction only. -/
theorem decodeWord_isSequencer {w : SeqWord} {i : Instr} (h : decodeWord w = .instr i) :
    i.isSequencer = true := by
  unfold decodeWord ifZero at h
  split at h
  · cases h; rfl
  · split at h
    · cases h
    · split at h <;> (try split at h) <;> first | (cases h; rfl) | cases h

/-- A row of the key table builds host operations only. -/
def BuildsHost (r : KeyRow) : Prop := ∀ k v, (r.build k v).isSequencer = false

theorem statusRows_buildHost : ∀ r ∈ statusRows, BuildsHost r := by
  unfold statusRows
  repeat (refine List.forall_mem_cons.2 ⟨fun _ _ => rfl, ?_⟩)
  exact List.forall_mem_nil _

theorem inertRows_buildHost : ∀ r ∈ inertRows, BuildsHost r := by
  unfold inertRows
  repeat (refine List.forall_mem_cons.2 ⟨fun _ _ => rfl, ?_⟩)
  exact List.forall_mem_nil _

theorem sequencerRows_buildHost : ∀ r ∈ sequencerRows, BuildsHost r := by
  unfold sequencerRows
  repeat (refine List.forall_mem_cons.2 ⟨fun _ _ => rfl, ?_⟩)
  exact List.forall_mem_nil _

theorem controlRows_buildHost : ∀ r ∈ controlRows, BuildsHost r := by
  unfold controlRows
  repeat (refine List.forall_mem_cons.2 ⟨fun _ _ => rfl, ?_⟩)
  exact List.forall_mem_nil _

theorem windowRows_buildHost : ∀ r ∈ windowRows, BuildsHost r := by
  unfold windowRows
  repeat (refine List.forall_mem_cons.2 ⟨fun _ _ => rfl, ?_⟩)
  exact List.forall_mem_nil _

theorem keyRows_buildHost : ∀ r ∈ keyRows, BuildsHost r := by
  intro r hr
  simp only [keyRows, List.mem_append] at hr
  rcases hr with (((h | h) | h) | h) | h
  · exact statusRows_buildHost r h
  · exact inertRows_buildHost r h
  · exact sequencerRows_buildHost r h
  · exact controlRows_buildHost r h
  · exact windowRows_buildHost r h

/-- An access decodes to a host operation only. -/
theorem decodeAccess_not_isSequencer {a : Access} {i : Instr} (h : decodeAccess a = .instr i) :
    i.isSequencer = false := by
  unfold decodeAccess at h
  split at h
  · unfold decodeKey at h
    split at h
    · rename_i r hr
      cases h
      exact keyRows_buildHost r (List.mem_of_find?_eq_some hr) _ _
    · cases h
  · split at h <;> cases h

namespace Machine

/-- All that one step can do. -/
theorem step_cases {s t : State} (h : step s = .next t) :
    (s.canStep = true ∧ s.breakpointHit = true ∧ t = seqHalt s) ∨
    (s.canStep = true ∧ s.breakpointHit = false ∧ ∃ r, decodeWord s.fetch = .reject r ∧ t = seqFault .illopcode s) ∨
    (s.canStep = true ∧ s.breakpointHit = false ∧ ∃ i, decodeWord s.fetch = .instr i ∧ exec i s = .next t) ∨
    (s.canStep = false ∧ s.inputs = [] ∧ t = s) ∨
    (s.canStep = false ∧ ∃ i rest, s.inputs = i :: rest ∧ acceptInput i { s with inputs := rest } = .next t) := by
  unfold step transition seqStep execWord at h
  cases hc : s.canStep
  · rw [hc] at h
    cases hi : s.inputs with
    | nil => rw [hi] at h; simp at h; exact .inr (.inr (.inr (.inl ⟨rfl, rfl, h.symm⟩)))
    | cons i rest => rw [hi] at h; simp at h; exact .inr (.inr (.inr (.inr ⟨rfl, i, rest, rfl, h⟩)))
  · rw [hc] at h
    cases hb : s.breakpointHit
    · rw [hb] at h
      cases hd : decodeWord s.fetch with
      | instr i => rw [hd] at h; simp at h; exact .inr (.inr (.inl ⟨rfl, rfl, i, rfl, h⟩))
      | reject r => rw [hd] at h; simp at h; exact .inr (.inl ⟨rfl, rfl, r, rfl, h.symm⟩)
    · rw [hb] at h; simp at h; exact .inl ⟨rfl, rfl, h.symm⟩

/-- All that a sequencer instruction can do: retire from some `pc`, stack and depth; fault on the stack; halt. -/
theorem exec_sequencer_cases {i : Instr} {s t : State} (hi : i.isSequencer = true) (h : exec i s = .next t) :
    (∃ pc stack sp, retire { s with pc := pc, stack := stack, sp := sp } = .next t) ∨
    (∃ f, f ≠ .illphase ∧ t = seqFault f s) ∨
    (t = seqHalt { s with pc := s.pc + 1 }) := by
  cases i with
  | opaqueWord w => exact .inl ⟨_, s.stack, s.sp, h⟩
  | jmp a => exact .inl ⟨_, s.stack, s.sp, h⟩
  | jz m a => exact .inl ⟨_, s.stack, s.sp, h⟩
  | jnz m a => exact .inl ⟨_, s.stack, s.sp, h⟩
  | je m a => exact .inl ⟨_, s.stack, s.sp, h⟩
  | jne m a => exact .inl ⟨_, s.stack, s.sp, h⟩
  | call a =>
    simp only [exec, execCall] at h
    split at h
    · exact .inl ⟨_, _, _, h⟩
    · simp only [Host.Outcome.next.injEq] at h
      exact .inr (.inl ⟨.stkovf, by decide, h.symm⟩)
  | ret =>
    simp only [exec, execRet] at h
    split at h
    · exact .inl ⟨_, s.stack, _, h⟩
    · simp only [Host.Outcome.next.injEq] at h
      exact .inr (.inl ⟨.stkunf, by decide, h.symm⟩)
  | halt =>
    simp only [exec, execHalt, Host.Outcome.next.injEq] at h
    exact .inr (.inr h.symm)
  | _ => exact Bool.noConfusion hi

/-- All that an engine step can do. -/
theorem engineStep_cases {s t : State} (hc : s.canStep = true) (h : step s = .next t) :
    (∃ pc stack sp, retire { s with pc := pc, stack := stack, sp := sp } = .next t) ∨
    (∃ f, f ≠ .illphase ∧ t = seqFault f s) ∨
    (∃ pc, t = seqHalt { s with pc := pc }) := by
  rcases step_cases h with ⟨_, _, rfl⟩ | ⟨_, _, r, _, rfl⟩ | ⟨_, _, i, hd, he⟩ | ⟨h', _⟩ | ⟨h', _⟩
  · exact .inr (.inr ⟨s.pc, rfl⟩)
  · exact .inr (.inl ⟨.illopcode, by decide, rfl⟩)
  · rcases exec_sequencer_cases (decodeWord_isSequencer hd) he with h1 | h2 | h3
    · exact .inl h1
    · exact .inr (.inl h2)
    · exact .inr (.inr ⟨_, h3⟩)
  · simp [hc] at h'
  · simp [hc] at h'

/-- All that an accepted input can do: an operation of the opcode table, read data alone, nothing, the reset
operation, or an external cause raised. -/
theorem acceptInput_cases {i : Input} {s t : State} (h : acceptInput i s = .next t) :
    (∃ a j, i = .access a ∧ decodeAccess a = .instr j ∧ j.isSequencer = false ∧ exec j s = .next t) ∨
    (∃ a d, i = .access a ∧ (∀ j, decodeAccess a ≠ .instr j) ∧ t = { s with rdata := d }) ∨
    (i = .reset ∧ t = resetOp s) ∨
    (i = .extScsiInt ∧ t = raiseCause .scsiint s) ∨
    (i = .extParityErr ∧ t = raiseCause .parerrint s) := by
  cases i with
  | access a =>
    simp only [acceptInput, acceptAccess] at h
    cases hd : decodeAccess a with
    | instr j =>
      rw [hd] at h
      exact .inl ⟨a, j, rfl, hd, decodeAccess_not_isSequencer hd, h⟩
    | reject r =>
      rw [hd] at h
      refine .inr (.inl ⟨a, t.rdata, rfl, by simp [hd], ?_⟩)
      cases r <;> simp only [Host.Outcome.next.injEq] at h <;> subst h <;> rfl
  | reset => simp [acceptInput] at h; exact .inr (.inr (.inl ⟨rfl, h.symm⟩))
  | extScsiInt => simp [acceptInput, extScsiInt] at h; exact .inr (.inr (.inr (.inl ⟨rfl, h.symm⟩)))
  | extParityErr => simp [acceptInput, extParityErr] at h; exact .inr (.inr (.inr (.inr ⟨rfl, h.symm⟩)))

end Machine
end Sys2Proof
end

