-- ==== Sys2Proof/Laws/PerInstr.lean ====
section
/-! SUPPORT. The family `EncodeAccepted`, one lemma per constructor: the code of a well-formed instruction is one the
block takes, a sequencer word of the instruction's own class (bit 31, 30_encoding.md R143, R144) or an access that is accepted
(20_memory.md R102). -/

namespace Sys2Proof.Laws.EncodeAccepted

/-- The code of `i`, if `i` is well formed, is taken by the block. -/
def Statement (i : Instr) : Prop :=
  i.wf = true →
    match encode i with
    | .word w => w[31] = (match i with | .opaqueWord _ => false | _ => true)
    | .access a => a.accepted = true

theorem opaqueWord (w : SeqWord) : Statement (.opaqueWord w) := by
  intro h; simpa [Instr.wf, encode] using h
theorem jmp (addr : SeqAddr) : Statement (.jmp addr) := by
  intro _; simp [encode, seqWord_bit31]
theorem jz (imm : Byte) (addr : SeqAddr) : Statement (.jz imm addr) := by
  intro _; simp [encode, seqWord_bit31]
theorem jnz (imm : Byte) (addr : SeqAddr) : Statement (.jnz imm addr) := by
  intro _; simp [encode, seqWord_bit31]
theorem call (addr : SeqAddr) : Statement (.call addr) := by
  intro _; simp [encode, seqWord_bit31]
theorem je (imm : Byte) (addr : SeqAddr) : Statement (.je imm addr) := by
  intro _; simp [encode, seqWord_bit31]
theorem jne (imm : Byte) (addr : SeqAddr) : Statement (.jne imm addr) := by
  intro _; simp [encode, seqWord_bit31]
theorem ret : Statement (.ret) := fun _ => rfl
theorem halt : Statement (.halt) := fun _ => rfl
theorem scsiseqR : Statement (.scsiseqR) := fun _ => rfl
theorem scsiseqW (v : Byte) : Statement (.scsiseqW v) := fun _ => rfl
theorem sxfrctl0R : Statement (.sxfrctl0R) := fun _ => rfl
theorem sxfrctl0W (v : Byte) : Statement (.sxfrctl0W v) := fun _ => rfl
theorem sxfrctl1R : Statement (.sxfrctl1R) := fun _ => rfl
theorem sxfrctl1W (v : Byte) : Statement (.sxfrctl1W v) := fun _ => rfl
theorem scsisigiR : Statement (.scsisigiR) := fun _ => rfl
theorem scsisigoW (v : Byte) : Statement (.scsisigoW v) := fun _ => rfl
theorem scsirateR : Statement (.scsirateR) := fun _ => rfl
theorem scsirateW (v : Byte) : Statement (.scsirateW v) := fun _ => rfl
theorem scsiidR : Statement (.scsiidR) := fun _ => rfl
theorem scsiidW (v : Byte) : Statement (.scsiidW v) := fun _ => rfl
theorem scsidatlR : Statement (.scsidatlR) := fun _ => rfl
theorem scsidatlW (v : Byte) : Statement (.scsidatlW v) := fun _ => rfl
theorem scsidathR : Statement (.scsidathR) := fun _ => rfl
theorem scsidathW (v : Byte) : Statement (.scsidathW v) := fun _ => rfl
theorem stcnt0R : Statement (.stcnt0R) := fun _ => rfl
theorem stcnt0W (v : Byte) : Statement (.stcnt0W v) := fun _ => rfl
theorem stcnt1R : Statement (.stcnt1R) := fun _ => rfl
theorem stcnt1W (v : Byte) : Statement (.stcnt1W v) := fun _ => rfl
theorem stcnt2R : Statement (.stcnt2R) := fun _ => rfl
theorem stcnt2W (v : Byte) : Statement (.stcnt2W v) := fun _ => rfl
theorem sstat0R : Statement (.sstat0R) := fun _ => rfl
theorem sstat0W (v : Byte) : Statement (.sstat0W v) := fun _ => rfl
theorem sstat1R : Statement (.sstat1R) := fun _ => rfl
theorem sstat1W (v : Byte) : Statement (.sstat1W v) := fun _ => rfl
theorem simode0R : Statement (.simode0R) := fun _ => rfl
theorem simode0W (v : Byte) : Statement (.simode0W v) := fun _ => rfl
theorem simode1R : Statement (.simode1R) := fun _ => rfl
theorem simode1W (v : Byte) : Statement (.simode1W v) := fun _ => rfl
theorem seltimerR : Statement (.seltimerR) := fun _ => rfl
theorem seltimerW (v : Byte) : Statement (.seltimerW v) := fun _ => rfl
theorem scamctlR : Statement (.scamctlR) := fun _ => rfl
theorem scamctlW (v : Byte) : Statement (.scamctlW v) := fun _ => rfl
theorem spiocapR : Statement (.spiocapR) := fun _ => rfl
theorem spiocapW (v : Byte) : Statement (.spiocapW v) := fun _ => rfl
theorem bedctlR : Statement (.bedctlR) := fun _ => rfl
theorem bedctlW (v : Byte) : Statement (.bedctlW v) := fun _ => rfl
theorem seqctlR : Statement (.seqctlR) := fun _ => rfl
theorem seqctlW (v : Byte) : Statement (.seqctlW v) := fun _ => rfl
theorem seqramR : Statement (.seqramR) := fun _ => rfl
theorem seqramW (v : Byte) : Statement (.seqramW v) := fun _ => rfl
theorem seqaddr0R : Statement (.seqaddr0R) := fun _ => rfl
theorem seqaddr0W (v : Byte) : Statement (.seqaddr0W v) := fun _ => rfl
theorem seqaddr1R : Statement (.seqaddr1R) := fun _ => rfl
theorem seqaddr1W (v : Byte) : Statement (.seqaddr1W v) := fun _ => rfl
theorem accumR : Statement (.accumR) := fun _ => rfl
theorem accumW (v : Byte) : Statement (.accumW v) := fun _ => rfl
theorem sindexR : Statement (.sindexR) := fun _ => rfl
theorem sindexW (v : Byte) : Statement (.sindexW v) := fun _ => rfl
theorem dindexR : Statement (.dindexR) := fun _ => rfl
theorem dindexW (v : Byte) : Statement (.dindexW v) := fun _ => rfl
theorem brkaddr0R : Statement (.brkaddr0R) := fun _ => rfl
theorem brkaddr0W (v : Byte) : Statement (.brkaddr0W v) := fun _ => rfl
theorem brkaddr1R : Statement (.brkaddr1R) := fun _ => rfl
theorem brkaddr1W (v : Byte) : Statement (.brkaddr1W v) := fun _ => rfl
theorem stackR : Statement (.stackR) := fun _ => rfl
theorem stackW (v : Byte) : Statement (.stackW v) := fun _ => rfl
theorem dspcistatusR : Statement (.dspcistatusR) := fun _ => rfl
theorem dspcistatusW (v : Byte) : Statement (.dspcistatusW v) := fun _ => rfl
theorem hcntrlR : Statement (.hcntrlR) := fun _ => rfl
theorem hcntrlW (v : Byte) : Statement (.hcntrlW v) := fun _ => rfl
theorem scbptrR : Statement (.scbptrR) := fun _ => rfl
theorem scbptrW (v : Byte) : Statement (.scbptrW v) := fun _ => rfl
theorem intstatR : Statement (.intstatR) := fun _ => rfl
theorem intstatW (v : Byte) : Statement (.intstatW v) := fun _ => rfl
theorem errorR : Statement (.errorR) := fun _ => rfl
theorem clrintW (v : Byte) : Statement (.clrintW v) := fun _ => rfl
theorem qinfifoR : Statement (.qinfifoR) := fun _ => rfl
theorem qinfifoW (v : Byte) : Statement (.qinfifoW v) := fun _ => rfl
theorem qincntR : Statement (.qincntR) := fun _ => rfl
theorem qincntW (v : Byte) : Statement (.qincntW v) := fun _ => rfl
theorem qoutfifoR : Statement (.qoutfifoR) := fun _ => rfl
theorem qoutfifoW (v : Byte) : Statement (.qoutfifoW v) := fun _ => rfl
theorem qoutcntR : Statement (.qoutcntR) := fun _ => rfl
theorem qoutcntW (v : Byte) : Statement (.qoutcntW v) := fun _ => rfl
theorem scbwinR (k : BitVec 5) : Statement (.scbwinR k) := by
  intro _; have := k.isLt; simp [encode, readAccess, Access.accepted, regionSize]; omega
theorem scbwinW (k : BitVec 5) (v : Byte) : Statement (.scbwinW k v) := by
  intro _; have := k.isLt; simp [encode, writeAccess, Access.accepted, regionSize]; omega

end Sys2Proof.Laws.EncodeAccepted
end

