-- ==== Sys2Proof/Tests/Slice0.lean ====
section
/-! SUPPORT. Tests: decoding of words and keys written out from the spec, ill-formed terms that the checks refuse, single
steps with the results 95_test_vectors.md gives, and for every obligation with hypotheses a witness
that meets them. -/

namespace Sys2Proof.Tests

open Sys2Proof.Machine

/-! ### Helpers -/

/-- An SCB in flight in phase Command with no data, the word `w` at `pc`, the engine running: the start of the vectors of
95_test_vectors.md section 2.4. -/
def inFlight (pc : SeqAddr) (w : SeqWord) : State :=
  { State.reset with
    active := some 0x00#8
    phase := .command
    pc := pc
    ram := ramWriteWord [] pc w
    regs := { State.reset.regs with hcntrl := 0x00#8 } }

/-- The answer is a next state with the property. -/
def after (r : Result) (p : State → Bool) : Bool :=
  match r with
  | .next t => p t
  | .fault _ => false
  | .refused _ => false

/-- A state with one access to come. -/
def withAccess (a : Access) (s : State) : State := { s with inputs := [.access a] }

/-- One step that accepts a one-byte write. -/
def write (offset : Nat) (v : Byte) (s : State) : Result := step (withAccess (writeAccess offset v) s)

/-- One step that accepts a one-byte read returns `v`. -/
def readsAs (offset : Nat) (v : Byte) (s : State) : Bool :=
  after (step (withAccess (readAccess offset) s)) (fun t => t.rdata == [v])

/-- The reset state with LOADRAM set (10_state.md R40). -/
def loading : State := { State.reset with regs := { State.reset.regs with seqctl := 0x01#8 } }

/-- The reset state with PAUSE clear: no work, the context closed to the host (10_state.md R42). -/
def unpaused : State := { State.reset with regs := { State.reset.regs with hcntrl := 0x00#8 } }

/-- The reset state with a queue capacity of `n`. -/
def capacity (n : Nat) : State := { State.reset with cfg := { qdepth := n } }

/-- A Halted state (10_state.md R24) with an SCB in flight. -/
def haltedState : State :=
  { inFlight 0x020#9 0x00000000#32 with
    halted := true
    error := { illphase := false, stkovf := true, illopcode := false, stkunf := false } }

/-- A breakpoint at address 0x102. -/
def atBreakpoint : State :=
  { inFlight 0x102#9 0x00000000#32 with
    regs := { State.reset.regs with hcntrl := 0x00#8, brkaddr1 := 0x01#8, brkaddr0 := 0x02#8 } }

/-- An SCB in flight in phase MsgIn. -/
def completing : State := { inFlight 0x006#9 0x00000000#32 with phase := .msgIn }

/-! ### Decoding: words written out from 30_encoding.md R141 to R146 -/

/-- The decode table of 95_test_vectors.md section 2.3, the well-formed words. -/
theorem test_decode_words :
    ([0x00000000, 0x7FFFFFFF, 0x12345678, 0x80000000, 0x80000500, 0x8001FF00, 0x9000100F, 0xA0000301, 0xB0010000,
      0xC0000703, 0xD00002FF, 0xE0000000, 0xF0000000] : List Nat).map (decodeTableWord 32) =
      [some (.opaqueWord 0x00000000#32), some (.opaqueWord 0x7FFFFFFF#32), some (.opaqueWord 0x12345678#32),
       some (.jmp 0x000#9), some (.jmp 0x005#9), some (.jmp 0x1FF#9), some (.jz 0x0F#8 0x010#9),
       some (.jnz 0x01#8 0x003#9), some (.call 0x100#9), some (.je 0x03#8 0x007#9), some (.jne 0xFF#8 0x002#9),
       some .ret, some .halt] := by
  decide

/-- The decode table of 95_test_vectors.md section 2.3, the malformed words. -/
theorem test_decode_malformed :
    ([0x80000001#32, 0x80020000#32, 0xB00005FF#32, 0xE0000100#32, 0xF0000001#32, 0x90020000#32,
      0xFFFFFFFF#32] : List SeqWord).all (fun w => decodeWord w = .reject .malformed) = true := by
  decide

/-- The operation of a key with the byte 0x5A written: the table's nine bits, then the write data from bit 16. -/
def keyInstr (key : Nat) : Option Instr := decodeTableWord 16 (key + 0x5A0000)

/-- Reads of the SCSI, status and mode registers, by key (10_state.md R34, 30_encoding.md R148). -/
theorem test_decode_status_reads :
    ([0x000, 0x001, 0x002, 0x003, 0x004, 0x005, 0x006, 0x007, 0x008, 0x009, 0x00A, 0x00B, 0x00C, 0x010,
      0x011] : List Nat).map keyInstr =
      [some .scsiseqR, some .sxfrctl0R, some .sxfrctl1R, some .scsisigiR, some .scsirateR, some .scsiidR,
       some .scsidatlR, some .scsidathR, some .stcnt0R, some .stcnt1R, some .stcnt2R, some .sstat0R, some
       .sstat1R, some .simode0R, some .simode1R] := by
  decide

/-- Writes of the SCSI, status and mode registers, by key (10_state.md R34, 30_encoding.md R148). -/
theorem test_decode_status_writes :
    ([0x100, 0x101, 0x102, 0x103, 0x104, 0x105, 0x106, 0x107, 0x108, 0x109, 0x10A, 0x10B, 0x10C, 0x110,
      0x111] : List Nat).map keyInstr =
      [some (.scsiseqW 0x5A#8), some (.sxfrctl0W 0x5A#8), some (.sxfrctl1W 0x5A#8), some (.scsisigoW
       0x5A#8), some (.scsirateW 0x5A#8), some (.scsiidW 0x5A#8), some (.scsidatlW 0x5A#8), some (.scsidathW
       0x5A#8), some (.stcnt0W 0x5A#8), some (.stcnt1W 0x5A#8), some (.stcnt2W 0x5A#8), some (.sstat0W
       0x5A#8), some (.sstat1W 0x5A#8), some (.simode0W 0x5A#8), some (.simode1W 0x5A#8)] := by
  decide

/-- Reads of the registers 0x018 to 0x01D and DSPCISTATUS, by key (10_state.md R34, 30_encoding.md R148). -/
theorem test_decode_inert_reads :
    ([0x018, 0x01A, 0x01B, 0x01D, 0x086] : List Nat).map keyInstr =
      [some .seltimerR, some .scamctlR, some .spiocapR, some .bedctlR, some .dspcistatusR] := by
  decide

/-- Writes of the registers 0x018 to 0x01D and DSPCISTATUS, by key (10_state.md R34, 30_encoding.md R148). -/
theorem test_decode_inert_writes :
    ([0x118, 0x11A, 0x11B, 0x11D, 0x186] : List Nat).map keyInstr =
      [some (.seltimerW 0x5A#8), some (.scamctlW 0x5A#8), some (.spiocapW 0x5A#8), some (.bedctlW 0x5A#8),
       some (.dspcistatusW 0x5A#8)] := by
  decide

/-- Reads of the sequencer registers, by key (10_state.md R34, 30_encoding.md R148). -/
theorem test_decode_sequencer_reads :
    ([0x060, 0x061, 0x062, 0x063, 0x064, 0x065, 0x066, 0x067, 0x068, 0x06F] : List Nat).map keyInstr =
      [some .seqctlR, some .seqramR, some .seqaddr0R, some .seqaddr1R, some .accumR, some .sindexR, some
       .dindexR, some .brkaddr0R, some .brkaddr1R, some .stackR] := by
  decide

/-- Writes of the sequencer registers, by key (10_state.md R34, 30_encoding.md R148). -/
theorem test_decode_sequencer_writes :
    ([0x160, 0x161, 0x162, 0x163, 0x164, 0x165, 0x166, 0x167, 0x168, 0x16F] : List Nat).map keyInstr =
      [some (.seqctlW 0x5A#8), some (.seqramW 0x5A#8), some (.seqaddr0W 0x5A#8), some (.seqaddr1W 0x5A#8),
       some (.accumW 0x5A#8), some (.sindexW 0x5A#8), some (.dindexW 0x5A#8), some (.brkaddr0W 0x5A#8), some
       (.brkaddr1W 0x5A#8), some (.stackW 0x5A#8)] := by
  decide

/-- Reads of the host control, interrupt and queue registers, by key (10_state.md R34, 30_encoding.md R148). -/
theorem test_decode_control_reads :
    ([0x087, 0x090, 0x091, 0x092, 0x09B, 0x09C, 0x09D, 0x09E] : List Nat).map keyInstr =
      [some .hcntrlR, some .scbptrR, some .intstatR, some .errorR, some .qinfifoR, some .qincntR, some
       .qoutfifoR, some .qoutcntR] := by
  decide

/-- Writes of the host control, interrupt and queue registers, by key (10_state.md R34, 30_encoding.md R148). -/
theorem test_decode_control_writes :
    ([0x187, 0x190, 0x191, 0x192, 0x19B, 0x19C, 0x19D, 0x19E] : List Nat).map keyInstr =
      [some (.hcntrlW 0x5A#8), some (.scbptrW 0x5A#8), some (.intstatW 0x5A#8), some (.clrintW 0x5A#8), some
       (.qinfifoW 0x5A#8), some (.qincntW 0x5A#8), some (.qoutfifoW 0x5A#8), some (.qoutcntW 0x5A#8)] := by
  decide

/-- The SCB window, first and last byte (10_state.md R50). -/
theorem test_decode_window :
    ([0x0A0, 0x0BF, 0x1A0, 0x1BF] : List Nat).map keyInstr =
      [some (.scbwinR 0#5), some (.scbwinR 31#5), some (.scbwinW 0#5 0x5A#8), some (.scbwinW 31#5 0x5A#8)] := by
  decide

/-- Keys of no operation: unknown offsets (10_state.md R51). -/
theorem test_decode_unknown :
    decodeAccess (readAccess 0x020) = .reject .unknownRead ∧
    decodeAccess (writeAccess 0x09F 0x12#8) = .reject .unknownWrite := by decide

/-- What an access of size 2 and one beyond the region decode to (20_memory.md R105). -/
theorem test_decode_absorbed :
    decodeAccess { dir := .write, offset := 0x01A, size := 2, wdata := 0x1234#32 } = .reject .absorbedWrite ∧
    decodeAccess (readAccess 0x0C0) = .reject .absorbedRead := by decide

/-! ### Well-formedness: ill-formed terms -/

/-- A control-flow word is no OPAQUE word (30_encoding.md R143). -/
theorem test_wf_refuses_opaque_bit31 : (Instr.opaqueWord 0x80000000#32).wf = false := by decide

/-- A size other than 1 is not accepted (20_memory.md R102). -/
theorem test_wf_refuses_size : ({ readAccess 0x01A with size := 2 } : Access).accepted = false := by decide

/-- An offset at the end of the region is not accepted (20_memory.md R102). -/
theorem test_wf_refuses_offset : (readAccess 0x0C0).accepted = false := by decide

/-! ### Sequencer instructions: 95_test_vectors.md section 2.4 -/

/-- S1 and S2. -/
theorem test_opaque_advances_and_wraps :
    after (step (inFlight 0x005#9 0x12345678#32)) (fun t => t.pc == 0x006#9 && t.phase == .status) = true ∧
    after (step (inFlight 0x1FF#9 0x00000000#32)) (fun t => t.pc == 0x000#9) = true := by decide

/-- S3 and S4. -/
theorem test_jmp :
    after (step (inFlight 0x002#9 0x80000500#32)) (fun t => t.pc == 0x005#9) = true ∧
    after (step (inFlight 0x004#9 0x80000400#32)) (fun t => t.pc == 0x004#9 && t.phase == .status) = true := by
  decide

/-- S5 and S6. -/
theorem test_jz :
    after (step { inFlight 0x001#9 0x9000100F#32 with accum := 0xF0#8 }) (fun t => t.pc == 0x010#9) = true ∧
    after (step { inFlight 0x001#9 0x9000100F#32 with accum := 0xF1#8 }) (fun t => t.pc == 0x002#9) = true := by
  decide

/-- S7 and S8. -/
theorem test_jnz :
    after (step { inFlight 0x000#9 0xA0000301#32 with accum := 0x01#8 }) (fun t => t.pc == 0x003#9) = true ∧
    after (step { inFlight 0x000#9 0xA0000301#32 with accum := 0x02#8 }) (fun t => t.pc == 0x001#9) = true := by
  decide

/-- S10: the last free entry, with the return address wrapped. -/
theorem test_call_pushes :
    after (step { inFlight 0x1FF#9 0xB0000700#32 with sp := 3 })
      (fun t => t.stack[3] == 0x000#9 && t.sp == 4 && t.pc == 0x007#9) = true := by decide

/-- S11: the fifth nested CALL. -/
theorem test_call_overflows :
    after (step { inFlight 0x020#9 0xB0000700#32 with sp := 4 })
      (fun t => t.error.toByte == 0x02#8 && t.halted && t.pending.brkadrint && t.pc == 0x020#9 && t.sp == 4 &&
        t.phase == .command) = true := by decide

/-- S12 and S13. -/
theorem test_je :
    after (step { inFlight 0x004#9 0xC0000703#32 with accum := 0x03#8 }) (fun t => t.pc == 0x007#9) = true ∧
    after (step { inFlight 0x004#9 0xC0000703#32 with accum := 0x04#8 }) (fun t => t.pc == 0x005#9) = true := by
  decide

/-- S14 and S15. -/
theorem test_jne :
    after (step { inFlight 0x000#9 0xD00002FF#32 with accum := 0x00#8 }) (fun t => t.pc == 0x002#9) = true ∧
    after (step { inFlight 0x000#9 0xD00002FF#32 with accum := 0xFF#8 }) (fun t => t.pc == 0x001#9) = true := by
  decide

/-- S16. -/
theorem test_ret_pops :
    after (step { inFlight 0x101#9 0xE0000000#32 with
        sp := 1, stack := #v[0x001#9, 0x000#9, 0x000#9, 0x000#9] })
      (fun t => t.sp == 0 && t.pc == 0x001#9) = true := by decide

/-- S17. -/
theorem test_ret_underflows :
    after (step (inFlight 0x000#9 0xE0000000#32))
      (fun t => t.error.toByte == 0x08#8 && t.halted && t.pc == 0x000#9) = true := by decide

/-- S18 and S19. -/
theorem test_halt :
    after (step (inFlight 0x002#9 0xF0000000#32)) (fun t => t.pc == 0x003#9 && t.halted &&
      t.error.toByte == 0x00#8 && t.pending.brkadrint && t.phase == .command) = true ∧
    after (step (inFlight 0x1FF#9 0xF0000000#32)) (fun t => t.pc == 0x000#9 && t.halted) = true := by decide

/-- S20. -/
theorem test_malformed_faults :
    after (step (inFlight 0x000#9 0x80000001#32)) (fun t => t.error.toByte == 0x04#8 && t.halted &&
      t.pc == 0x000#9 && t.phase == .command) = true := by decide

/-- The breakpoint wins over the malformed word (95_test_vectors.md section 2.4, last example). -/
theorem test_breakpoint_wins :
    after (step { inFlight 0x000#9 0x80000001#32 with
        regs := { State.reset.regs with hcntrl := 0x00#8, brkaddr1 := 0x00#8 } })
      (fun t => t.error.toByte == 0x00#8 && t.halted) = true := by decide

/-! ### Host register operations -/

/-- T9: a plain register stores the byte. -/
theorem test_scamctl_write : after (write 0x01A 0x5A#8 State.reset) (fun t => t.regs.scamctl == 0x5A#8) = true := by
  decide

/-- A8: reads after reset. -/
theorem test_reads_after_reset :
    readsAs 0x00C 0x0A#8 State.reset = true ∧ readsAs 0x068 0x80#8 State.reset = true ∧
    readsAs 0x087 0x04#8 State.reset = true ∧ readsAs 0x09D 0xFF#8 State.reset = true ∧
    readsAs 0x003 0x00#8 State.reset = true := by decide

/-- T6, P5: a Data phase requested from BusFree. -/
theorem test_scsisigo_illegal :
    after (write 0x003 0x46#8 State.reset) (fun t => t.phase == .busFree && t.error.toByte == 0x01#8 &&
      t.pending.toByte == 0x08#8 && t.sstat0.toByte == 0x04#8 && t.halted) = true := by decide

/-- 95_test_vectors.md section 2.6: a legal request, and the two bits outside the phase ignored. -/
theorem test_scsisigo_legal :
    after (write 0x003 0x14#8 State.reset) (fun t => t.phase == .arbitration && t.sstat0.toByte == 0x01#8) = true ∧
    after (write 0x003 0x26#8 State.reset) (fun t => t.phase == .busFree && !t.halted) = true := by decide

/-- SSTAT0 clears on read (41_register_ops.md R216). -/
theorem test_sstat0_clears :
    after (step (withAccess (readAccess 0x00B) { State.reset with sstat0 :=
        { phasechg := true, busfree := true, phasemis := true, qinrej := false, qoutunf := false } }))
      (fun t => t.rdata == [0x07#8] && t.sstat0.toByte == 0x00#8) = true := by decide

/-- T4: enabling a pending cause raises the line, with one edge. -/
theorem test_simode0_raises_line :
    after (write 0x010 0x04#8 { State.reset with
        pending := { State.reset.pending with scsiint := true }
        regs := { State.reset.regs with hcntrl := 0x06#8 } })
      (fun t => t.irqLine && t.edges == [true]) = true := by decide

/-- T4: clearing the last enabled cause drops the line. -/
theorem test_clrint_drops_line :
    after (write 0x092 0x10#8 { State.reset with
        pending := { State.reset.pending with parerrint := true }
        regs := { State.reset.regs with hcntrl := 0x06#8, simode0 := 0x14#8 }
        irqLine := true, edges := [true] })
      (fun t => t.pending.toByte == 0x00#8 && !t.irqLine && t.edges == [false, true]) = true := by decide

/-- B1: SEQRESET is not stored. -/
theorem test_seqctl_stores :
    after (write 0x060 0x07#8 State.reset) (fun t => t.regs.seqctl == 0x05#8 && t.sstat1 == 0x2A#8) = true := by
  decide

/-- B8: SEQRESET. -/
theorem test_seqctl_seqreset :
    after (write 0x060 0x02#8 { State.reset with pc := 0x155#9, sp := 2 })
      (fun t => t.pc == 0x000#9 && t.sp == 0 && t.regs.seqctl == 0x00#8) = true := by decide

/-- B4: the last lane of the last word; the address wraps. -/
theorem test_seqram_wraps :
    after (write 0x061 0x04#8 { loading with loadAddr := 0x1FF#9, loadLane := 3#2 })
      (fun t => ramWord t.ram 0x1FF#9 == 0x04000000#32 && t.loadAddr == 0x000#9 && t.loadLane == 0#2) = true := by
  decide

/-- T1: nothing is loaded outside load mode. -/
theorem test_seqram_gated :
    after (write 0x061 0xAA#8 State.reset) (fun t => t.ram == [] && t.loadAddr == 0x000#9) = true := by decide

/-- B7: the high half of `pc`. -/
theorem test_seqaddr1_pc :
    after (write 0x063 0xFF#8 { State.reset with pc := 0x055#9 }) (fun t => t.pc == 0x155#9) = true := by decide

/-- B6: a `pc` write refused. -/
theorem test_seqaddr0_refused :
    after (write 0x062 0x55#8 unpaused) (fun t => t.pc == 0x000#9) = true := by decide

/-- B5: the gate of the context registers. -/
theorem test_accum_gate :
    after (write 0x064 0xF0#8 State.reset) (fun t => t.accum == 0xF0#8) = true ∧
    after (write 0x064 0x11#8 unpaused) (fun t => t.accum == 0x00#8) = true := by decide

/-- B9. -/
theorem test_brkaddr1_stores : after (write 0x068 0x7F#8 State.reset) (fun t => t.regs.brkaddr1 == 0x01#8) = true := by
  decide

/-- B10: CHIPRST, with the rest of the byte discarded. -/
theorem test_hcntrl_chiprst :
    after (write 0x087 0x03#8 haltedState) (fun t => !t.halted && t.regs.hcntrl == 0x04#8 && t.pc == 0x000#9) = true := by
  decide

/-- T3: the refused enqueue of a FIFO of capacity 2. -/
theorem test_qinfifo_rejects :
    after (write 0x09B 0x03#8 { capacity 2 with qin := [0x01#8, 0x02#8] })
      (fun t => t.qin == [0x01#8, 0x02#8] && t.sstat0.toByte == 0x08#8 && t.sstat1 == 0x09#8) = true := by decide

/-- T2, Q2: the oldest index first; an empty FIFO. -/
theorem test_qoutfifo_pops :
    after (step (withAccess (readAccess 0x09D) { State.reset with qout := [0x09#8, 0x03#8] }))
      (fun t => t.rdata == [0x09#8] && t.qout == [0x03#8]) = true ∧
    after (step (withAccess (readAccess 0x09D) State.reset))
      (fun t => t.rdata == [0xFF#8] && t.sstat0.toByte == 0x10#8) = true := by decide

/-- T9: the last byte of a slot. -/
theorem test_scbwin_write :
    after (write 0x0BF 0x77#8 { State.reset with regs := { State.reset.regs with scbptr := 0x05#8 } })
      (fun t => scbByte t.scb 0x05#8 31#5 == 0x77#8 && scbByte t.scb 0x06#8 31#5 == 0x00#8) = true := by decide

/-- A1 to A4 and A6: absorbed accesses and unknown offsets. -/
theorem test_absorbed_and_unknown :
    after (step (withAccess { dir := .read, offset := 0x01A, size := 2, wdata := 0 } State.reset))
      (fun t => t.rdata == [0xFF#8, 0xFF#8]) = true ∧
    after (step (withAccess { dir := .write, offset := 0x01A, size := 2, wdata := 0x1234#32 } State.reset))
      (fun t => t.regs == State.reset.regs) = true ∧
    readsAs 0x0C0 0xFF#8 State.reset = true ∧ readsAs 0x020 0xFF#8 State.reset = true := by decide

/-- P1 step 7: a completion. -/
theorem test_completion :
    after (step { inFlight 0x006#9 0x00000000#32 with
        active := some 0x05#8, phase := .msgIn, scb := [(163, 0x55#8)] })
      (fun t => t.qout == [0x05#8] && t.active == none && t.phase == .busFree && t.pending.cmdcmplt &&
        t.sstat0.toByte == 0x03#8 && t.scb == []) = true := by decide

/-- 95_test_vectors.md section 2.7: the single-step pause. -/
theorem test_single_step :
    after (step { inFlight 0x000#9 0x00000000#32 with
        regs := { State.reset.regs with hcntrl := 0x02#8, seqctl := 0x04#8 } })
      (fun t => t.regs.hcntrl == 0x06#8 && t.phase == .status) = true := by decide

/-- P3's program, assembled from its text: the words its listing gives (95_test_vectors.md section 3). -/
theorem test_assemble_p3 :
    assembleText "call sub ; comment\nje 0x5A, done\nhalt\nhalt\ndone: jmp done\n.org 0x010\nsub: nop\n ret" =
      some [(0x000#9, 0xB0001000#32), (0x001#9, 0xC000045A#32), (0x002#9, 0xF0000000#32), (0x003#9, 0xF0000000#32),
        (0x004#9, 0x80000400#32), (0x010#9, 0x00000000#32), (0x011#9, 0xE0000000#32)] := by decide

/-- Lines that R149 does not admit: an immediate past 255, an address past 511, a missing comma. -/
theorem test_parse_refuses :
    parseProgram "jz 256, 0" = none ∧ parseProgram "jmp 512" = none ∧ parseProgram "je 1 2" = none := by decide

/-- A label before an `.org` stands for the address the `.org` sets, and a label may be the operand of `.org`
(30_encoding.md R149). -/
theorem test_label_before_org :
    assembleText "jmp a\na: .org 0x010\nb: nop\n.org b" =
      some [(0x000#9, 0x80001000#32), (0x010#9, 0x00000000#32)] ∧
    assembleText ".org x\nret\n.org 0x020\nx: halt" =
      some [(0x020#9, 0xE0000000#32), (0x020#9, 0xF0000000#32)] ∧
    assembleText "x: .org x\nret" = none := by decide

/-- Lines of a host program (30_encoding.md R150), with the forms of P2, P4 and P6 (95_test_vectors.md section 3). -/
theorem test_parse_host :
    parseHostProgram "W 0x087 0x02 ; run\nR2 0x01A -> 0xFFFF\n    ; reset\nreset ; ext_scsi_int ; pop; then 6" =
      some [{ input := .access (writeAccess 0x087 0x02#8), expected := none },
        { input := .access { readAccess 0x01A with size := 2 }, expected := some [0xFF#8, 0xFF#8] },
        { input := .reset, expected := none }, { input := .extScsiInt, expected := none }] ∧
    parseHostProgram "W 0x060 0x01 ; W 0x061 0x00, 0xB0 ; W 0x061 0x05 ×2" =
      some ([(0x060, 0x01#8), (0x061, 0x00#8), (0x061, 0xB0#8), (0x061, 0x05#8), (0x061, 0x05#8)].map fun p =>
        { input := .access (writeAccess p.1 p.2), expected := none }) := by decide

/-- A skipped word and a placed one (30_encoding.md R149). -/
theorem test_image_of_org :
    (assemble [.org (.addr 0x010#9), .ret]).map (fun ws => (imageWord ws 0x00F#9, imageWord ws 0x010#9)) =
      some (0x00000000#32, 0xE0000000#32) := by decide

/-- P4's one word, as the host loads it (95_test_vectors.md section 3). -/
theorem test_load_p4 :
    (loadAccesses [(0x000#9, 0xB0000000#32)]).map (fun a => (a.offset, a.byte)) =
      [(0x060, 0x01#8), (0x062, 0x00#8), (0x063, 0x00#8), (0x061, 0x00#8), (0x061, 0x00#8), (0x061, 0x00#8),
       (0x061, 0xB0#8), (0x060, 0x00#8)] := by decide

/-- A ring of two entries wraps and empties (42_queue_ops.md R274). -/
theorem test_ring_wraps :
    (((Ring.reset 2).push 2 0x01#8).pop 2).2.push 2 0x02#8 = { buf := [0x01#8, 0x02#8], head := 1, count := 1 } ∧
    ((((((Ring.reset 2).push 2 0x01#8).pop 2).2.push 2 0x02#8).push 2 0x03#8).contents 2) = [0x02#8, 0x03#8] := by
  decide

/-- The first instruction placed after reset runs, of either kind (log 12). -/
theorem test_withFetchWord :
    after (step (State.reset.withFetchWord 32 0x8001FF00)) (fun t => t.pc == 0x1FF#9) = true ∧
    after (step (State.reset.withFetchWord 16 0x100)) (fun t => t.regs.scsiseq == 0x00#8 && t.inputs == []) = true := by
  decide

/-! ### Witnesses: states and operands that meet the hypotheses of each obligation -/

theorem test_witness_DecodeEncodeRoundTrip :
    (Instr.opaqueWord 0x7FFFFFFF#32).wf = true ∧ (Instr.scbwinW 31#5 0xFF#8).wf = true := by decide

theorem test_witness_DecodedWordReencodes : decodeWord 0x9000100F#32 = .instr (.jz 0x0F#8 0x010#9) := by decide

theorem test_witness_MalformedWordsExactly : decodeWord 0xE0000100#32 = .reject .malformed := by decide

theorem test_witness_DecodedAccessReencodes :
    decodeAccess (writeAccess 0x0BF 0x77#8) = .instr (.scbwinW 31#5 0x77#8) ∧
    (writeAccess 0x0BF 0x77#8).dir = .write := by decide

theorem test_witness_UnknownOffsetsExactly :
    (readAccess 0x09F).size = 1 ∧ (readAccess 0x09F).offset < 0x0C0 ∧ UnknownOffset (readAccess 0x09F).offset ∧
    (writeAccess 0x0BF 0x00#8).size = 1 ∧ (writeAccess 0x0BF 0x00#8).offset < 0x0C0 ∧
    ¬ UnknownOffset (writeAccess 0x0BF 0x00#8).offset := by
  refine ⟨rfl, by decide, ?_, rfl, by decide, ?_⟩ <;> unfold UnknownOffset <;> decide

/-- The ends of every range of the list, and the offsets beside them. -/
theorem test_witness_UnknownOffset_bounds :
    (∀ o ∈ [0x00D, 0x00F, 0x012, 0x017, 0x019, 0x01C, 0x01E, 0x05F, 0x069, 0x06E, 0x070, 0x085, 0x088, 0x08F, 0x093,
      0x09A, 0x09F], UnknownOffset o) ∧
    (∀ o ∈ [0x000, 0x00C, 0x010, 0x011, 0x018, 0x01A, 0x01B, 0x01D, 0x060, 0x068, 0x06F, 0x086, 0x087, 0x090, 0x092,
      0x09B, 0x09E, 0x0A0, 0x0BF], ¬ UnknownOffset o) := by
  simp [UnknownOffset]

/-- The enabling condition, true and false by each of its parts (40_sequencer.md R171). -/
theorem test_canStep :
    completing.canStep = true ∧ { completing with halted := true }.canStep = false ∧
    { completing with regs := State.reset.regs }.canStep = false ∧
    { completing with regs := { completing.regs with seqctl := 0x01#8 } }.canStep = false ∧
    { completing with active := none }.canStep = false ∧
    { completing with cfg := { qdepth := 1 }, qout := [0x00#8] }.canStep = false := by decide

/-- The breakpoint disabled at `pc` itself, and enabled at another address. -/
theorem test_witness_StepRunsDecodedWord :
    (inFlight 0x000#9 0x80000500#32).canStep = true ∧ (inFlight 0x000#9 0x80000500#32).regs.brkaddr1[7] = true ∧
    decodeWord (ramWord (inFlight 0x000#9 0x80000500#32).ram (inFlight 0x000#9 0x80000500#32).pc) =
      .instr (.jmp 0x005#9) ∧
    { atBreakpoint with pc := 0x002#9 }.canStep = true ∧ { atBreakpoint with pc := 0x002#9 }.regs.brkaddr1[7] = false ∧
    { atBreakpoint with pc := 0x002#9 }.pc ≠ BitVec.ofBool atBreakpoint.regs.brkaddr1[0] ++ atBreakpoint.regs.brkaddr0 := by
  decide

/-- An engine that only the stall stops. -/
theorem test_witness_CanStepExactly :
    { completing with cfg := { qdepth := 1 }, qout := [0x00#8] }.halted = false ∧
    { completing with cfg := { qdepth := 1 }, qout := [0x00#8] }.regs.hcntrl[2] = false ∧
    { completing with cfg := { qdepth := 1 }, qout := [0x00#8] }.regs.seqctl[0] = false ∧
    completing.active ≠ none ∧ completing.phase = .msgIn ∧
    { completing with cfg := { qdepth := 1 }, qout := [0x00#8] }.qout.length = 1 := by decide

theorem test_witness_StepAlwaysAnswersNext : State.reset.canStep = false ∧ State.reset.inputs = [] := by decide

theorem test_witness_StepRunsDecodedAccess :
    (withAccess (writeAccess 0x09B 0x07#8) State.reset).canStep = false ∧
    (withAccess (writeAccess 0x09B 0x07#8) State.reset).inputs = [.access (writeAccess 0x09B 0x07#8)] ∧
    decodeAccess (writeAccess 0x09B 0x07#8) = .instr (.qinfifoW 0x07#8) := by decide

theorem test_witness_StepMalformedWordFaults :
    (inFlight 0x000#9 0x80000001#32).canStep = true ∧ (inFlight 0x000#9 0x80000001#32).regs.brkaddr1[7] = true ∧
    decodeWord (ramWord (inFlight 0x000#9 0x80000001#32).ram (inFlight 0x000#9 0x80000001#32).pc) =
      .reject .malformed := by decide

theorem test_witness_StepBreakpointHalts :
    atBreakpoint.canStep = true ∧ atBreakpoint.regs.brkaddr1[7] = false ∧
    atBreakpoint.pc = BitVec.ofBool atBreakpoint.regs.brkaddr1[0] ++ atBreakpoint.regs.brkaddr0 := by decide

theorem test_witness_StepAbsorbsUnacceptedAccess :
    State.reset.canStep = false ∧ (withAccess (readAccess 0x0C0) State.reset).inputs = [.access (readAccess 0x0C0)] ∧
    0x0C0 ≤ (readAccess 0x0C0).offset ∧ ({ readAccess 0x09D with size := 4 } : Access).size ≠ 1 := by decide

theorem test_witness_StepUnknownOffsetReadsOnes :
    (withAccess (readAccess 0x020) State.reset).canStep = false ∧
    (withAccess (readAccess 0x020) State.reset).inputs = [.access (readAccess 0x020)] ∧
    (readAccess 0x020).size = 1 ∧ UnknownOffset (readAccess 0x020).offset := by
  refine ⟨by decide, rfl, rfl, ?_⟩; unfold UnknownOffset; decide

theorem test_witness_StepTakesExternalEvents :
    ({ State.reset with inputs := [.extScsiInt] } : State).canStep = false ∧
    ({ State.reset with inputs := [.extScsiInt] } : State).inputs = [.extScsiInt] ∧
    ({ State.reset with inputs := [.extParityErr] } : State).inputs = [.extParityErr] := by decide

theorem test_witness_OpaqueAndBranchesRetire : (inFlight 0x1FF#9 0x00000000#32).canStep = true := by decide

theorem test_witness_CallPushesOrOverflows :
    ({ inFlight 0x1FF#9 0xB0000700#32 with sp := 3 } : State).sp.val < 4 ∧
    ({ inFlight 0x1FF#9 0xB0000700#32 with sp := 3 } : State).canStep = true ∧
    ({ inFlight 0x020#9 0xB0000700#32 with sp := 4 } : State).sp.val = 4 := by decide

theorem test_witness_RetPopsOrUnderflows :
    0 < ({ inFlight 0x101#9 0xE0000000#32 with sp := 1 } : State).sp.val ∧
    ({ inFlight 0x101#9 0xE0000000#32 with sp := 1 } : State).canStep = true ∧
    (inFlight 0x000#9 0xE0000000#32).sp.val = 0 := by decide

/-- An SCB queued, none in flight, in a given phase. -/
def queuedIn (p : Phase) : State := { unpaused with qin := [0x21#8], phase := p }

theorem test_witness_RetireDequeuesOldestScb :
    (queuedIn .busFree).active = none ∧ (queuedIn .busFree).qin = [0x21#8] ∧ (queuedIn .busFree).halted = false ∧
    (queuedIn .busFree).phase = .busFree ∧ (queuedIn .arbitration).phase = .arbitration ∧
    (queuedIn .selection).phase ≠ .busFree ∧ (queuedIn .selection).phase ≠ .arbitration := by decide

/-- The count's bytes all zero, and one of them not: both branches of the engine's path. -/
theorem test_witness_EnginePathOfPhases :
    nextPhase [] 0x05#8 .command = .status ∧ nextPhase [(169, 0x02#8)] 0x05#8 .msgOut = .dataOut ∧
    nextPhase [(160, 0x01#8), (169, 0x02#8)] 0x05#8 .command = .dataIn := by decide

theorem test_witness_RetireAdvancesPhase :
    (inFlight 0x000#9 0x00000000#32).halted = false ∧ (inFlight 0x000#9 0x00000000#32).active = some 0x00#8 ∧
    (inFlight 0x000#9 0x00000000#32).phase ≠ .msgIn := by decide

theorem test_witness_RetireCompletesScb :
    completing.halted = false ∧ completing.active = some 0x00#8 ∧ completing.phase = .msgIn ∧
    completing.qout.length ≠ completing.cfg.qdepth := by decide

theorem test_witness_EngineStepKeepsHostState :
    completing.canStep = true ∧ ∃ t, step completing = .next t := ⟨by decide, _, rfl⟩

/-- A byte of every phase and of both reserved combinations (95_test_vectors.md section 2.6). -/
theorem test_witness_DecodePhaseByBits :
    ([0x00, 0x02, 0x04, 0x08, 0xEE, 0x06, 0x46, 0x86, 0xA6, 0xC6, 0xE6, 0x26, 0x66] : List Byte).map decodePhase =
      [some .busFree, some .busFree, some .arbitration, some .selection, some .selection, some .dataOut, some .dataIn,
       some .command, some .msgOut, some .status, some .msgIn, none, none] := by decide

theorem test_witness_ScsisigoRequestsPhase :
    decodePhase 0x26#8 = none ∧ decodePhase 0x00#8 = some State.reset.phase ∧
    decodePhase 0x04#8 = some .arbitration ∧ Phase.arbitration ≠ State.reset.phase ∧
    legal State.reset.phase .arbitration = true ∧ decodePhase 0x46#8 = some .dataIn ∧
    Phase.dataIn ≠ State.reset.phase ∧ legal State.reset.phase .dataIn = false := by decide

theorem test_witness_SeqramWriteFillsOneLane :
    State.reset.regs.seqctl[0] = false ∧ loading.regs.seqctl[0] = true := by decide

theorem test_witness_FourSeqramWritesLoadWord :
    ({ loading with loadAddr := 0x1FF#9 } : State).regs.seqctl[0] = true ∧
    ({ loading with loadAddr := 0x1FF#9 } : State).loadLane = 0#2 := by decide

theorem test_witness_SeqaddrBankedWindow :
    loading.regs.seqctl[0] = true ∧ State.reset.regs.seqctl[0] = false ∧ State.reset.regs.hcntrl[2] = true ∧
    haltedState.regs.seqctl[0] = false ∧ haltedState.halted = true ∧
    unpaused.regs.seqctl[0] = false ∧ unpaused.regs.hcntrl[2] = false ∧ unpaused.halted = false := by decide

theorem test_witness_ContextRegistersGated :
    State.reset.regs.hcntrl[2] = true ∧ haltedState.halted = true ∧
    unpaused.regs.hcntrl[2] = false ∧ unpaused.halted = false := by decide

theorem test_witness_HcntrlReadsAndStores : (0xFE#8)[0] = false := by decide

theorem test_witness_ResetRestoresEveryElement :
    (0x03#8)[0] = true ∧ ({ haltedState with inputs := [.reset] } : State).canStep = false ∧
    ({ haltedState with inputs := [.reset] } : State).inputs = [.reset] := by decide

theorem test_witness_ResetKeepsModelFields : (0x01#8)[0] = true := by decide

theorem test_witness_QueuePortsEnqueueAndDequeue :
    ({ capacity 2 with qin := [0x01#8] } : State).qin.length ≠ (capacity 2).cfg.qdepth ∧
    ({ capacity 2 with qin := [0x01#8, 0x02#8] } : State).qin.length = (capacity 2).cfg.qdepth ∧
    ({ capacity 2 with qout := [0x01#8] } : State).qout = [0x01#8] ∧ State.reset.qout = [] := by decide

theorem test_witness_CountReadsAreExact :
    State.reset.cfg.wf = true ∧
    ({ State.reset with qin := List.replicate 255 0x00#8 } : State).qin.length ≤ State.reset.cfg.qdepth ∧
    State.reset.qout.length ≤ State.reset.cfg.qdepth :=
  ⟨by decide, le_of_eq List.length_replicate, by decide⟩

theorem test_witness_ScbWindowReadsAndWritesSlot :
    ¬ ((0xFF#8 : Byte) = State.reset.regs.scbptr ∧ (0#5 : BitVec 5) = 31#5) ∧
    (0 : Nat) ≠ scbAddr State.reset.regs.scbptr 31#5 := by decide

theorem test_witness_WriteThenReadRoundTrips :
    (0xFE#8)[0] = false ∧ State.reset.regs.hcntrl[2] = true ∧ haltedState.halted = true ∧
    loading.regs.seqctl[0] = true := by decide

theorem test_reset_inv : State.reset.Inv := by constructor <;> decide

theorem test_completing_inv : completing.Inv := by constructor <;> decide

theorem test_witness_StepKeepsInvariants : completing.Inv ∧ ∃ t, step completing = .next t :=
  ⟨test_completing_inv, _, rfl⟩

theorem test_witness_EveryRunEndsWithinMeasure :
    completing.canStep = true ∧ (∃ t, step completing = .next t) ∧ completing.Inv :=
  ⟨by decide, ⟨_, rfl⟩, test_completing_inv⟩

theorem test_witness_StepsRealiseWholeAccess :
    (withAccess (writeAccess 0x087 0x00#8) State.reset).canStep = false ∧
    (withAccess (writeAccess 0x087 0x00#8) State.reset).inputs = [.access (writeAccess 0x087 0x00#8)] := by decide

/-- An engine step, an enqueue, a read of the output FIFO, and an input that is neither. -/
theorem test_witness_ScbsStayInFifoOrder :
    ((∃ t, step completing = .next t) ∧ completing.canStep = true) ∧
    ((∃ t, step (withAccess (writeAccess 0x09B 0x07#8) State.reset) = .next t) ∧
      (withAccess (writeAccess 0x09B 0x07#8) State.reset).canStep = false ∧
      (Input.access (writeAccess 0x09B 0x07#8)).resets = false ∧
      (Input.access (writeAccess 0x09B 0x07#8)).submits = some 0x07#8) ∧
    ((∃ t, step (withAccess (readAccess 0x09D) State.reset) = .next t) ∧
      (Input.access (readAccess 0x09D)).drains = true) ∧
    (Input.extScsiInt.submits = none ∧ Input.extScsiInt.drains = false) ∧ State.reset.inputs = [] :=
  ⟨⟨⟨_, rfl⟩, by decide⟩, ⟨⟨_, rfl⟩, by decide, by decide, by decide⟩, ⟨⟨_, rfl⟩, by decide⟩, by decide, rfl⟩

theorem test_witness_HaltedIsLeftOnlyByReset :
    (withAccess (writeAccess 0x087 0x02#8) haltedState).halted = true ∧
    (∃ t, step (withAccess (writeAccess 0x087 0x02#8) haltedState) = .next t) ∧
    (∀ i rest, (withAccess (writeAccess 0x087 0x02#8) haltedState).inputs = i :: rest → i.resets = false) := by
  refine ⟨by decide, ⟨_, rfl⟩, ?_⟩
  intro i rest h
  cases h
  decide

theorem test_witness_EnteringHaltedRaisesBrkadrint :
    ∃ t, step (inFlight 0x002#9 0xF0000000#32) = .next t ∧ (inFlight 0x002#9 0xF0000000#32).halted = false ∧
      t.halted = true := ⟨_, rfl, by decide, by decide⟩

theorem test_witness_RamChangesOnlyByLoadOrReset :
    ∃ t, step (withAccess (writeAccess 0x061 0x80#8) loading) = .next t ∧
      t.ram ≠ (withAccess (writeAccess 0x061 0x80#8) loading).ram := ⟨_, rfl, by decide⟩

theorem test_witness_PhaseChangesOnlyAsAllowed :
    ∃ t, step completing = .next t ∧ t.phase ≠ completing.phase := ⟨_, rfl, by decide⟩

theorem test_witness_CanonicalStoresAreEqual :
    Memory.wf [(3, 0x80#8), (2047, 0x01#8)] = true ∧ ∀ a, Memory.read [(3, 0x80#8), (2047, 0x01#8)] a =
      Memory.read [(3, 0x80#8), (2047, 0x01#8)] a := ⟨by decide, fun _ => rfl⟩

theorem test_witness_RingImplementsFifo :
    1 ≤ 1 ∧ (Ring.reset 1).wf 1 = true ∧ (Ring.reset 1).isFull 1 = false ∧
    ((Ring.reset 1).push 1 0x07#8).wf 1 = true ∧ ((Ring.reset 1).push 1 0x07#8).isEmpty = false := by decide

end Sys2Proof.Tests
end

section
/-! The scope family (00_scope.md): what a reset keeps of the fields that are no state of the block. -/

namespace Sys2Proof.Proofs

open Sys2Proof Sys2Proof.Machine

/-- A HCNTRL write with CHIPRST is the reset operation, its other bits discarded (41_register_ops.md R236). -/
theorem exec_hcntrlW_of_chiprst {v : Byte} (hv : v[0] = true) (s : State) :
    exec (.hcntrlW v) s = .next (resetOp s) := by
  have hexec : exec (.hcntrlW v) s = execHcntrlW v s := rfl
  rw [hexec, execHcntrlW, if_pos hv]

/-- The `reset` input is the reset operation (20_memory.md R114). -/
@[simp] theorem acceptInput_reset (s : State) : acceptInput .reset s = .next (resetOp s) := rfl

/-- Settles O45: both forms of reset are `resetOp`, which copies the three fields. -/
theorem resetKeepsModelFields : Obligations.ResetKeepsModelFields := by
  intro s v hv
  exact ⟨resetOp s, exec_hcntrlW_of_chiprst hv s, acceptInput_reset s,
    resetOp_cfg s, resetOp_inputs s, resetOp_rdata s⟩

end Sys2Proof.Proofs
end

section
/-! All that a host register operation can do, said once: the host's half of `exec`, as `exec_sequencer_cases` is the
sequencer's. -/

namespace Sys2Proof.Proofs

open Sys2Proof Sys2Proof.Machine

/-- The state after a host operation executed in `s`, one constructor per kind of effect. The effects that a later
proof must tie to one operation name it; the others leave it free. -/
inductive HostEffect (s : State) : Instr → State → Prop
  /-- a read that changes nothing but the read data (20_memory.md R104 step 4) -/
  | answers (i : Instr) (v : Byte) : HostEffect s i (answerByte v s)
  /-- an ignored write, or a gated one with its gate closed (41_register_ops.md R213, R226, R230) -/
  | nothing (i : Instr) : HostEffect s i s
  /-- a write of a plain register (41_register_ops.md R211) -/
  | stores (i : Instr) (r : PlainReg) (v : Byte) : HostEffect s i { s with regs := s.regs.set r v }
  /-- a write of a data register of the context (41_register_ops.md R230) -/
  | setsData (i : Instr) (a si di : Byte) : HostEffect s i { s with accum := a, sindex := si, dindex := di }
  /-- a write of one half of the address behind SEQADDR0/1 (41_register_ops.md R229) -/
  | setsSeqAddr (i : Instr) (f : SeqAddr → SeqAddr) : HostEffect s i (writeSeqAddr f s)
  /-- SEQCTL.W (41_register_ops.md R224) -/
  | setsSeqctl (v : Byte) : HostEffect s (.seqctlW v)
      (startLoad (!s.loadram && v[0]) (storeSeqctl v (if v[1] then seqReset s else s)))
  /-- SEQRAM.W while loading (41_register_ops.md R226) -/
  | loads (v : Byte) (hl : s.loadram = true) : HostEffect s (.seqramW v) (loadByte v s)
  /-- BRKADDR1.W (41_register_ops.md R231) -/
  | setsBrkaddr1 (v : Byte) :
      HostEffect s (.brkaddr1W v) { s with regs := { s.regs with brkaddr1 := v &&& 0x81#8 } }
  /-- HCNTRL.W with CHIPRST (41_register_ops.md R236) -/
  | resets (v : Byte) (hv : v[0] = true) : HostEffect s (.hcntrlW v) (resetOp s)
  /-- HCNTRL.W without CHIPRST (41_register_ops.md R235) -/
  | setsHcntrl (v : Byte) (hv : v[0] = false) :
      HostEffect s (.hcntrlW v) (updateLine { s with regs := { s.regs with hcntrl := v } })
  /-- SIMODE0.W (41_register_ops.md R218) -/
  | setsSimode0 (v : Byte) :
      HostEffect s (.simode0W v) (updateLine { s with regs := { s.regs with simode0 := v } })
  /-- CLRINT.W (41_register_ops.md R240) -/
  | clearsCauses (v : Byte) :
      HostEffect s (.clrintW v) (updateLine { s with pending := s.pending.clearBits v })
  /-- SSTAT0.R (41_register_ops.md R216) -/
  | clearsTransients :
      HostEffect s .sstat0R (answerByte s.sstat0.toByte { s with sstat0 := TransientBits.clear })
  /-- SCSISIGO.W (43_phase_ops.md R294) -/
  | writesPhase (v : Byte) : HostEffect s (.scsisigoW v) (phaseWrite v s)
  /-- QINFIFO.W (42_queue_ops.md R261) -/
  | enqueues (v : Byte) : HostEffect s (.qinfifoW v) (enqueueInput v s)
  /-- QOUTFIFO.R (42_queue_ops.md R264) -/
  | dequeues : HostEffect s .qoutfifoR (answerByte (dequeueOutput s).1 (dequeueOutput s).2)
  /-- SCBWIN.W (42_queue_ops.md R270) -/
  | setsScbByte (k : BitVec 5) (v : Byte) :
      HostEffect s (.scbwinW k v) { s with scb := Memory.write s.scb (scbAddr s.regs.scbptr k) v }

/-- Every host operation answers a next state, and one of the effects listed. -/
theorem exec_hostEffect {i : Instr} (hi : i.isSequencer = false) (s : State) :
    ∃ t, exec i s = .next t ∧ HostEffect s i t := by
  cases i with
  | opaqueWord w | jmp a | jz m a | jnz m a | call a | je m a | jne m a | ret | halt => exact Bool.noConfusion hi
  | scsiseqR | sxfrctl0R | sxfrctl1R | scsisigiR | scsirateR | scsiidR | scsidatlR | scsidathR | stcnt0R | stcnt1R
  | stcnt2R | sstat1R | simode0R | simode1R | seltimerR | scamctlR | spiocapR | bedctlR | seqctlR | seqramR
  | seqaddr0R | seqaddr1R | accumR | sindexR | dindexR | brkaddr0R | brkaddr1R | stackR | dspcistatusR | hcntrlR
  | scbptrR | intstatR | errorR | qinfifoR | qincntR | qoutcntR | scbwinR k =>
    exact ⟨_, rfl, .answers _ _⟩
  | sstat0W v | sstat1W v | stackW v | intstatW v | qincntW v | qoutfifoW v | qoutcntW v =>
    exact ⟨_, rfl, .nothing _⟩
  | scsiseqW v | sxfrctl0W v | sxfrctl1W v | scsirateW v | scsiidW v | scsidatlW v | scsidathW v | stcnt0W v
  | stcnt1W v | stcnt2W v | simode1W v | seltimerW v | scamctlW v | spiocapW v | bedctlW v | brkaddr0W v
  | dspcistatusW v | scbptrW v =>
    exact ⟨_, rfl, .stores _ _ _⟩
  | accumW v | sindexW v | dindexW v =>
    refine ⟨_, rfl, ?_⟩
    split
    · exact .setsData _ _ _ _
    · exact .nothing _
  | seqaddr0W v | seqaddr1W v => exact ⟨_, rfl, .setsSeqAddr _ _⟩
  | seqctlW v => exact ⟨_, rfl, .setsSeqctl v⟩
  | seqramW v =>
    refine ⟨_, rfl, ?_⟩
    split
    · exact .loads v ‹_›
    · exact .nothing _
  | brkaddr1W v => exact ⟨_, rfl, .setsBrkaddr1 v⟩
  | hcntrlW v =>
    refine ⟨_, rfl, ?_⟩
    split
    · exact .resets v ‹_›
    · exact .setsHcntrl v (Bool.eq_false_of_not_eq_true ‹_›)
  | simode0W v => exact ⟨_, rfl, .setsSimode0 v⟩
  | clrintW v => exact ⟨_, rfl, .clearsCauses v⟩
  | sstat0R => exact ⟨_, rfl, .clearsTransients⟩
  | scsisigoW v => exact ⟨_, rfl, .writesPhase v⟩
  | qinfifoW v => exact ⟨_, rfl, .enqueues v⟩
  | qoutfifoR => exact ⟨_, rfl, .dequeues⟩
  | scbwinW k v => exact ⟨_, rfl, .setsScbByte k v⟩

/-- The next state of a host operation is one of the effects listed. -/
theorem hostEffect_of_exec {i : Instr} {s t : State} (hi : i.isSequencer = false) (h : exec i s = .next t) :
    HostEffect s i t := by
  obtain ⟨u, hu, heffect⟩ := exec_hostEffect hi s
  obtain rfl : u = t := Host.Outcome.next.inj (hu.symm.trans h)
  exact heffect

/-- A byte written to SCSISIGO requests a phase or does nothing (43_phase_ops.md R294). -/
theorem phaseWrite_cases (v : Byte) (s : State) :
    phaseWrite v s = s ∨ ∃ p, phaseWrite v s = phaseRequest p s := by
  unfold phaseWrite
  split
  · exact .inr ⟨_, rfl⟩
  · exact .inl rfl

end Sys2Proof.Proofs
end

section
/-! The state family (10_state.md R53): the invariants hold after reset, and every step keeps them. First one lemma per
shared operation, then the engine step and the accepted input. -/

namespace Sys2Proof.Proofs

open Sys2Proof Sys2Proof.Machine

/-! ### After reset -/

/-- Settles O50: each clause is a fact about the reset values of 10_state.md R20. -/
theorem resetSatisfiesInvariants : Obligations.ResetSatisfiesInvariants where
  qdepth := by decide
  qin := Nat.zero_le _
  qout := Nat.zero_le _
  line := rfl
  error := fun h => Bool.noConfusion h
  edges := rfl
  seqctl := rfl
  hcntrl := rfl
  brkaddr1 := rfl
  ramForm := rfl
  ramBound := rfl
  scbForm := rfl
  scbBound := rfl

/-- A falling edge ends every trace at level 0; the edge is added only where the level was 1 (60_exceptions.md R325). -/
theorem edgesFit_fall {es : List Bool} {level : Bool} (h : EdgesFit es level = true) :
    EdgesFit (if level then false :: es else es) false = true := by
  cases level
  · exact h
  · simpa [EdgesFit] using h

theorem inv_resetOp {s : State} (h : s.Inv) : (resetOp s).Inv :=
  have hreset : State.reset.Inv := resetSatisfiesInvariants
  { hreset with qdepth := h.qdepth, qin := Nat.zero_le _, qout := Nat.zero_le _, edges := edgesFit_fall h.edges }

/-! ### The interrupt line -/

@[simp] theorem updateLine_lineValue (s : State) : (updateLine s).lineValue = s.lineValue := by
  simp [State.lineValue, State.inten]

/-- A line update keeps the trace alternating and its newest entry the level (60_exceptions.md R321, R325). -/
theorem edgesFit_updateLine {s : State} (h : EdgesFit s.edges s.irqLine = true) :
    EdgesFit (updateLine s).edges (updateLine s).irqLine = true := by
  rw [updateLine_edges, updateLine_irqLine]
  split
  · next hsame => rwa [hsame]
  · next hchange =>
    have hold : (!s.lineValue) = s.irqLine := by
      cases hv : s.lineValue <;> cases hl : s.irqLine <;> simp_all
    simp [EdgesFit, hold, h]

/-- Whatever changes of the causes, the fault record and the two registers the line depends on, a line update restores
the invariants, if a recorded fault comes with Halted and CHIPRST is not stored. -/
theorem inv_updateLine {s : State} (h : s.Inv) (p : PendingCauses) (e : ErrorRecord) (halted : Bool)
    (simode0 hcntrl : Byte) (herror : e.any = true → halted = true) (hbit : hcntrl[0] = false) :
    (updateLine { s with pending := p, error := e, halted := halted,
                         regs := { s.regs with simode0 := simode0, hcntrl := hcntrl } }).Inv where
  qdepth := by simpa using h.qdepth
  qin := by simpa using h.qin
  qout := by simpa using h.qout
  line := by simp
  error := by simpa using herror
  edges := edgesFit_updateLine h.edges
  seqctl := by simpa using h.seqctl
  hcntrl := by simpa using hbit
  brkaddr1 := by simpa using h.brkaddr1
  ramForm := by simpa using h.ramForm
  ramBound := by simpa using h.ramBound
  scbForm := by simpa using h.scbForm
  scbBound := by simpa using h.scbBound

theorem inv_raiseCause {s : State} (h : s.Inv) (c : Cause) : (raiseCause c s).Inv :=
  inv_updateLine h (s.pending.set c true) s.error s.halted s.regs.simode0 s.regs.hcntrl h.error h.hcntrl

theorem inv_seqHalt {s : State} (h : s.Inv) : (seqHalt s).Inv :=
  inv_updateLine h (s.pending.set .brkadrint true) s.error true s.regs.simode0 s.regs.hcntrl (fun _ => rfl) h.hcntrl

theorem inv_seqFault {s : State} (h : s.Inv) (f : SeqError) : (seqFault f s).Inv :=
  inv_updateLine h (s.pending.set .brkadrint true) (s.error.mark f) true s.regs.simode0 s.regs.hcntrl
    (fun _ => rfl) h.hcntrl

/-! ### Phase requests -/

theorem inv_movePhase {s : State} (h : s.Inv) (p : Phase) : (movePhase p s).Inv := { h with }

theorem inv_forceBusFree {s : State} (h : s.Inv) : (forceBusFree s).Inv := by
  unfold forceBusFree
  split <;> exact { h with }

theorem inv_phaseRequest {s : State} (h : s.Inv) (p : Phase) : (phaseRequest p s).Inv := by
  rcases phaseRequest_cases p s with ⟨_, hsame⟩ | ⟨_, _, hmove⟩ | ⟨_, _, hfault⟩
  · rwa [hsame]
  · rw [hmove]; exact inv_movePhase h p
  · rw [hfault]; exact inv_seqFault (inv_forceBusFree h) .illphase

theorem inv_phaseWrite {s : State} (h : s.Inv) (v : Byte) : (phaseWrite v s).Inv := by
  rcases phaseWrite_cases v s with hsame | ⟨p, hrequest⟩
  · rwa [hsame]
  · rw [hrequest]; exact inv_phaseRequest h p

/-! ### The two stores and the two FIFOs -/

theorem inv_writeScb {s : State} (h : s.Inv) (i : Byte) (k : BitVec 5) (v : Byte) :
    ({ s with scb := Memory.write s.scb (scbAddr i k) v } : State).Inv :=
  { h with scbForm := Memory.wf_write _ _ v h.scbForm
           scbBound := Memory.below_write _ v (scbAddr_lt i k) h.scbBound }

theorem inv_loadByte {s : State} (h : s.Inv) (v : Byte) : (loadByte v s).Inv :=
  { h with ramForm := Memory.wf_write _ _ v h.ramForm
           ramBound := Memory.below_write _ v (laneAddr_lt s.loadAddr s.loadLane) h.ramBound }

/-- An entry added to a FIFO that is not full keeps it within its capacity. -/
theorem length_append_le {xs : List Byte} {n : Nat} (v : Byte) (hle : xs.length ≤ n) (hne : (xs.length == n) = false) :
    (xs ++ [v]).length ≤ n := by
  have : xs.length ≠ n := by simpa using hne
  simp; omega

theorem inv_enqueueInput {s : State} (h : s.Inv) (v : Byte) : (enqueueInput v s).Inv := by
  unfold enqueueInput
  split
  · exact { h with }
  · next hroom => exact { h with qin := length_append_le v h.qin (Bool.eq_false_of_not_eq_true hroom) }

theorem inv_dequeueOutput {s : State} (h : s.Inv) : (dequeueOutput s).2.Inv := by
  unfold dequeueOutput
  split
  · exact { h with }
  · next v rest hq =>
    have hlen := h.qout
    rw [hq] at hlen
    exact { h with qout := (Nat.le_succ _).trans hlen }

/-! ### The engine step -/

/-- The progress action keeps the invariants: a completion has room in the output FIFO. -/
theorem inv_progress {s t : State} (h : s.Inv) (hp : progress s = .next t) : t.Inv := by
  rcases progress_cases hp with ⟨i, rest, _, hq, rfl⟩ | ⟨i, _, _, hroom, rfl⟩ | ⟨i, _, _, rfl⟩
  · have hlen := h.qin
    rw [hq] at hlen
    have hstart : ({ s with qin := rest, active := some i } : State).Inv :=
      { h with qin := (Nat.le_succ _).trans hlen }
    exact inv_phaseRequest hstart .arbitration
  · have hdone : ({ s with scb := Memory.write s.scb (scbAddr i 3) goodStatus,
                           qout := s.qout ++ [i], active := none } : State).Inv :=
      { inv_writeScb h i 3 goodStatus with qout := length_append_le i h.qout hroom }
    exact inv_raiseCause (inv_phaseRequest hdone .busFree) .cmdcmplt
  · exact inv_phaseRequest h _

/-- Setting PAUSE changes neither the reserved bit 0 of HCNTRL nor INTEN. -/
theorem inv_setPause {s : State} (h : s.Inv) : (setPause s).Inv :=
  { h with line := by simp [h.line, State.lineValue, State.inten]
           hcntrl := by simp [h.hcntrl] }

theorem inv_singleStepPause {s : State} (h : s.Inv) : (singleStepPause s).Inv := by
  unfold singleStepPause
  split
  · exact h
  · split
    · exact inv_setPause h
    · exact h

theorem inv_retire {s t : State} (h : s.Inv) (hr : retire s = .next t) : t.Inv := by
  obtain ⟨u, hu, rfl⟩ := retire_cases hr
  exact inv_singleStepPause (inv_progress h hu)

theorem inv_engineStep {s t : State} (h : s.Inv) (hc : s.canStep = true) (hs : step s = .next t) : t.Inv := by
  rcases engineStep_cases hc hs with ⟨pc, stack, sp, hr⟩ | ⟨f, _, rfl⟩ | ⟨pc, rfl⟩
  · exact inv_retire (s := { s with pc := pc, stack := stack, sp := sp }) { h with } hr
  · exact inv_seqFault h f
  · exact inv_seqHalt (s := { s with pc := pc }) { h with }

/-! ### The accepted input -/

@[simp] theorem storedRegs_set_seqctl (g : StoredRegs) (r : PlainReg) (v : Byte) : (g.set r v).seqctl = g.seqctl := by
  cases r <;> rfl
@[simp] theorem storedRegs_set_hcntrl (g : StoredRegs) (r : PlainReg) (v : Byte) : (g.set r v).hcntrl = g.hcntrl := by
  cases r <;> rfl
@[simp] theorem storedRegs_set_simode0 (g : StoredRegs) (r : PlainReg) (v : Byte) : (g.set r v).simode0 = g.simode0 := by
  cases r <;> rfl
@[simp] theorem storedRegs_set_brkaddr1 (g : StoredRegs) (r : PlainReg) (v : Byte) : (g.set r v).brkaddr1 = g.brkaddr1 := by
  cases r <;> rfl

/-- No invariant speaks of a plain register. -/
theorem inv_plainWrite {s : State} (h : s.Inv) (r : PlainReg) (v : Byte) :
    ({ s with regs := s.regs.set r v } : State).Inv :=
  { h with line := by simp [h.line, State.lineValue, State.inten]
           seqctl := by simp [h.seqctl]
           hcntrl := by simp [h.hcntrl]
           brkaddr1 := by simp [h.brkaddr1] }

theorem inv_answerByte {s : State} (h : s.Inv) (v : Byte) : (answerByte v s).Inv := { h with }

theorem inv_writeSeqAddr {s : State} (h : s.Inv) (f : SeqAddr → SeqAddr) : (writeSeqAddr f s).Inv := by
  unfold writeSeqAddr
  split
  · exact { h with }
  · split <;> exact { h with }

theorem inv_seqReset {s : State} (h : s.Inv) : (seqReset s).Inv := by
  unfold seqReset
  split <;> exact { h with }

/-- The stored bits of a SEQCTL write leave SEQRESET out (10_state.md R40). -/
theorem inv_storeSeqctl {s : State} (h : s.Inv) (v : Byte) : (storeSeqctl v s).Inv :=
  { h with seqctl := by simp [storeSeqctl] }

theorem inv_startLoad {s : State} (h : s.Inv) (edge : Bool) : (startLoad edge s).Inv := by
  unfold startLoad
  split <;> exact { h with }

/-- The stored bits of a BRKADDR1 write leave bits 6 to 1 out (10_state.md R43). -/
theorem inv_writeBrkaddr1 {s : State} (h : s.Inv) (v : Byte) :
    ({ s with regs := { s.regs with brkaddr1 := v &&& 0x81#8 } } : State).Inv :=
  { h with brkaddr1 := by simp [BitVec.and_assoc] }

/-- Every effect of a host operation keeps the invariants. -/
theorem inv_hostEffect {i : Instr} {s t : State} (h : s.Inv) (he : HostEffect s i t) : t.Inv := by
  cases he with
  | answers _ v => exact inv_answerByte h v
  | nothing => exact h
  | stores _ r v => exact inv_plainWrite h r v
  | setsData => exact { h with }
  | setsSeqAddr _ f => exact inv_writeSeqAddr h f
  | setsSeqctl v =>
    have hreset : (if v[1] then seqReset s else s).Inv := by
      split
      · exact inv_seqReset h
      · exact h
    exact inv_startLoad (inv_storeSeqctl hreset v) _
  | loads v _ => exact inv_loadByte h v
  | setsBrkaddr1 v => exact inv_writeBrkaddr1 h v
  | resets v _ => exact inv_resetOp h
  | setsHcntrl v hv => exact inv_updateLine h s.pending s.error s.halted s.regs.simode0 v h.error hv
  | setsSimode0 v => exact inv_updateLine h s.pending s.error s.halted v s.regs.hcntrl h.error h.hcntrl
  | clearsCauses v =>
    exact inv_updateLine h (s.pending.clearBits v) s.error s.halted s.regs.simode0 s.regs.hcntrl h.error h.hcntrl
  | clearsTransients => exact { h with }
  | writesPhase v => exact inv_phaseWrite h v
  | enqueues v => exact inv_enqueueInput h v
  | dequeues => exact inv_answerByte (inv_dequeueOutput h) _
  | setsScbByte k v => exact inv_writeScb h _ k v

theorem inv_acceptInput {i : Input} {s t : State} (h : s.Inv) (ha : acceptInput i s = .next t) : t.Inv := by
  rcases acceptInput_cases ha with ⟨a, j, _, _, hj, he⟩ | ⟨a, d, _, _, rfl⟩ | ⟨_, rfl⟩ | ⟨_, rfl⟩ | ⟨_, rfl⟩
  · exact inv_hostEffect h (hostEffect_of_exec hj he)
  · exact { h with }
  · exact inv_resetOp h
  · exact inv_raiseCause h .scsiint
  · exact inv_raiseCause h .parerrint

/-- Settles O51: a step is an engine step, nothing, or an accepted input. -/
theorem stepKeepsInvariants : Obligations.StepKeepsInvariants := by
  intro s t h hs
  rcases step_cases hs with ⟨hc, _⟩ | ⟨hc, _⟩ | ⟨hc, _⟩ | ⟨_, _, rfl⟩ | ⟨_, i, rest, _, ha⟩
  · exact inv_engineStep h hc hs
  · exact inv_engineStep h hc hs
  · exact inv_engineStep h hc hs
  · exact h
  · exact inv_acceptInput (s := { s with inputs := rest }) { h with } ha

end Sys2Proof.Proofs
end

section
/-! Entry to Halted (10_state.md R53 e): whatever makes the engine enter Halted raises BRKADRINT. One lemma per shared
operation, then the engine step and the accepted input. -/

namespace Sys2Proof.Proofs

open Sys2Proof Sys2Proof.Machine

/-- Where `t` is Halted, `s` was Halted or BRKADRINT is pending in `t` (10_state.md R53 e). -/
def HaltRaises (s t : State) : Prop := t.halted = true → s.halted = true ∨ t.pending.brkadrint = true

/-- An operation that leaves the Halted flag alone enters nothing. -/
theorem haltRaises_of_halted_eq {s t : State} (h : t.halted = s.halted) : HaltRaises s t :=
  fun ht => .inl (h ▸ ht)

theorem haltRaises_seqHalt (s u : State) : HaltRaises s (seqHalt u) := fun _ => .inr (by simp [PendingCauses.set])

theorem haltRaises_seqFault (s u : State) (f : SeqError) : HaltRaises s (seqFault f u) :=
  fun _ => .inr (by simp [PendingCauses.set])

/-- Only its fault makes a phase request enter Halted. -/
theorem haltRaises_phaseRequest {s u : State} (hu : u.halted = s.halted) (p : Phase) :
    HaltRaises s (phaseRequest p u) := by
  rcases phaseRequest_cases p u with ⟨_, hsame⟩ | ⟨_, _, hmove⟩ | ⟨_, _, hfault⟩
  · rw [hsame]; exact haltRaises_of_halted_eq hu
  · rw [hmove]; exact haltRaises_of_halted_eq (by simpa using hu)
  · rw [hfault]; exact haltRaises_seqFault s _ _

/-- Raising a cause clears none. -/
theorem haltRaises_raiseCause {s u : State} (h : HaltRaises s u) (c : Cause) : HaltRaises s (raiseCause c u) := by
  intro ht
  rcases h (by simpa using ht) with hs | hp
  · exact .inl hs
  · refine .inr ?_
    rw [raiseCause_pending]
    cases c <;> simp [PendingCauses.set, hp]

theorem haltRaises_progress {s t : State} (hp : progress s = .next t) : HaltRaises s t := by
  rcases progress_cases hp with ⟨i, rest, _, _, rfl⟩ | ⟨i, _, _, _, rfl⟩ | ⟨i, _, _, rfl⟩
  · refine haltRaises_phaseRequest ?_ _
    rfl
  · refine haltRaises_raiseCause (haltRaises_phaseRequest ?_ _) _
    rfl
  · exact haltRaises_phaseRequest rfl _

theorem haltRaises_retire {s t : State} (hr : retire s = .next t) : HaltRaises s t := by
  obtain ⟨u, hu, rfl⟩ := retire_cases hr
  intro ht
  simpa using haltRaises_progress hu (by simpa using ht)

theorem haltRaises_engineStep {s t : State} (hc : s.canStep = true) (hs : step s = .next t) : HaltRaises s t := by
  rcases engineStep_cases hc hs with ⟨pc, stack, sp, hr⟩ | ⟨f, _, rfl⟩ | ⟨pc, rfl⟩
  · exact haltRaises_retire (s := { s with pc := pc, stack := stack, sp := sp }) hr
  · exact haltRaises_seqFault s s f
  · exact haltRaises_seqHalt s _

@[simp] theorem storeSeqctl_halted (v : Byte) (s : State) : (storeSeqctl v s).halted = s.halted := rfl
@[simp] theorem startLoad_halted (edge : Bool) (s : State) : (startLoad edge s).halted = s.halted := by
  unfold startLoad; split <;> rfl
@[simp] theorem dequeueOutput_halted (s : State) : (dequeueOutput s).2.halted = s.halted := by
  unfold dequeueOutput; split <;> rfl

/-- Of the host operations only SCSISIGO.W, by its fault, makes the engine enter Halted. -/
theorem haltRaises_hostEffect {i : Instr} {s t : State} (he : HostEffect s i t) : HaltRaises s t := by
  cases he with
  | writesPhase v =>
    rcases phaseWrite_cases v s with hsame | ⟨p, hrequest⟩
    · rw [hsame]; exact haltRaises_of_halted_eq rfl
    · rw [hrequest]; exact haltRaises_phaseRequest rfl p
  | resets v _ => exact fun ht => Bool.noConfusion ht
  | setsSeqctl v =>
    refine haltRaises_of_halted_eq ?_
    rw [startLoad_halted, storeSeqctl_halted]
    split <;> simp
  | _ => exact haltRaises_of_halted_eq (by simp)

theorem haltRaises_acceptInput {i : Input} {s t : State} (ha : acceptInput i s = .next t) : HaltRaises s t := by
  rcases acceptInput_cases ha with ⟨a, j, _, _, hj, he⟩ | ⟨a, d, _, _, rfl⟩ | ⟨_, rfl⟩ | ⟨_, rfl⟩ | ⟨_, rfl⟩
  · exact haltRaises_hostEffect (hostEffect_of_exec hj he)
  · exact haltRaises_of_halted_eq rfl
  · exact fun ht => Bool.noConfusion ht
  · exact haltRaises_of_halted_eq (raiseCause_halted _ s)
  · exact haltRaises_of_halted_eq (raiseCause_halted _ s)

theorem haltRaises_step {s t : State} (hs : step s = .next t) : HaltRaises s t := by
  rcases step_cases hs with ⟨hc, _⟩ | ⟨hc, _⟩ | ⟨hc, _⟩ | ⟨_, _, rfl⟩ | ⟨_, i, rest, _, ha⟩
  · exact haltRaises_engineStep hc hs
  · exact haltRaises_engineStep hc hs
  · exact haltRaises_engineStep hc hs
  · exact haltRaises_of_halted_eq rfl
  · exact haltRaises_acceptInput (s := { s with inputs := rest }) ha

/-- Settles O56: the Halted flag is set by `seqHalt` only, which raises BRKADRINT, and no later part of the step
clears it. -/
theorem enteringHaltedRaisesBrkadrint : Obligations.EnteringHaltedRaisesBrkadrint := by
  intro s t hs hrun hhalt
  rcases haltRaises_step hs hhalt with hs' | hp
  · simp [hrun] at hs'
  · exact hp

end Sys2Proof.Proofs
end

section
/-! The unknown offsets (10_state.md R51): which offsets the rows of the key table (30_encoding.md R148) are at, family by
family. -/

namespace Sys2Proof.Proofs

open Sys2Proof Sys2Proof.Machine

/-- An access key as a number: bit 8 is the direction, the offset stands below it (30_encoding.md R148). -/
theorem dirKey_toNat (d : Dir) (b : Byte) : (d.bit ++ b).toNat = d.bit.toNat * 256 + b.toNat := toNat_append_add _ _

/-- Bit 8 of an access key is the direction (30_encoding.md R148). -/
theorem dirKey_bit8 (d : Dir) (b : Byte) : (d.bit ++ b : Key)[8] = decide (d = .write) := by
  have := b.isLt
  rw [BitVec.getElem_eq_testBit_toNat, dirKey_toNat, Nat.testBit_eq_decide_div_mod_eq]
  cases d <;> simp [Dir.bit] <;> omega

/-- Two access keys are equal only with the same direction and the same offset. -/
theorem dirKey_inj {d e : Dir} {b c : Byte} : d.bit ++ b = e.bit ++ c ↔ d = e ∧ b.toNat = c.toNat := by
  rw [← BitVec.toNat_inj, dirKey_toNat, dirKey_toNat]
  have := b.isLt; have := c.isLt
  cases d <;> cases e <;> simp [Dir.bit] <;> omega

/-- The row of a read takes the reads at its offset. -/
@[simp] theorem readRow_hit (o b : Byte) (i : Instr) (d : Dir) :
    (readRow o i).hit (d.bit ++ b) = true ↔ d = .read ∧ b.toNat = o.toNat := by
  have hmask : d.bit ++ b &&& 0x1FF#9 = d.bit ++ b := BitVec.and_allOnes
  rw [KeyRow.hit, readRow, hmask, beq_iff_eq]
  exact dirKey_inj (e := .read)

/-- The row of a write takes the writes at its offset. -/
@[simp] theorem writeRow_hit (o b : Byte) (f : Byte → Instr) (d : Dir) :
    (writeRow o f).hit (d.bit ++ b) = true ↔ d = .write ∧ b.toNat = o.toNat := by
  have hmask : d.bit ++ b &&& 0x1FF#9 = d.bit ++ b := BitVec.and_allOnes
  rw [KeyRow.hit, writeRow, hmask, beq_iff_eq]
  exact dirKey_inj (e := .write)

/-- Some row of `rows` takes the access of direction `d` at offset `b`. -/
def Takes (rows : List KeyRow) (d : Dir) (b : Byte) : Prop := ∃ r ∈ rows, r.hit (d.bit ++ b) = true

theorem statusRows_take (d : Dir) (b : Byte) :
    Takes statusRows d b ↔ b.toNat ≤ 0x0C ∨ b.toNat = 0x10 ∨ b.toNat = 0x11 := by
  cases d <;> simp [Takes, statusRows] <;> omega

theorem inertRows_take (d : Dir) (b : Byte) :
    Takes inertRows d b ↔
      b.toNat = 0x18 ∨ b.toNat = 0x1A ∨ b.toNat = 0x1B ∨ b.toNat = 0x1D ∨ b.toNat = 0x86 := by
  cases d <;> simp [Takes, inertRows]

theorem sequencerRows_take (d : Dir) (b : Byte) :
    Takes sequencerRows d b ↔ (0x60 ≤ b.toNat ∧ b.toNat ≤ 0x68) ∨ b.toNat = 0x6F := by
  cases d <;> simp [Takes, sequencerRows] <;> omega

theorem controlRows_take (d : Dir) (b : Byte) :
    Takes controlRows d b ↔
      b.toNat = 0x87 ∨ (0x90 ≤ b.toNat ∧ b.toNat ≤ 0x92) ∨ (0x9B ≤ b.toNat ∧ b.toNat ≤ 0x9E) := by
  cases d <;> simp [Takes, controlRows] <;> omega

/-- The mask of the window rows drops the low five bits of a key. -/
theorem windowMask_toNat (k : Key) : (k &&& 0x1E0#9).toNat = k.toNat / 32 * 32 := by
  have hcut : k &&& 0x1E0#9 = k >>> 5 <<< 5 := by
    ext i hi
    interval_cases i <;> simp
  have := k.isLt
  rw [hcut, BitVec.toNat_shiftLeft, BitVec.toNat_ushiftRight, Nat.shiftRight_eq_div_pow, Nat.shiftLeft_eq]
  omega

/-- The masked key of an access of direction `d` at offset `b` is that of `e` at a multiple `c` of 32 iff the directions
agree and `b` is one of the 32 offsets from `c` on. -/
theorem windowMask_dirKey {d e : Dir} {b c : Byte} (hc : c.toNat % 32 = 0) :
    (d.bit ++ b) &&& 0x1E0#9 = e.bit ++ c ↔ d = e ∧ c.toNat ≤ b.toNat ∧ b.toNat ≤ c.toNat + 31 := by
  rw [← BitVec.toNat_inj, windowMask_toNat, dirKey_toNat, dirKey_toNat]
  have := b.isLt; have := c.isLt
  cases d <;> cases e <;> simp [Dir.bit] <;> omega

/-- A window row takes any of the 32 offsets from 0x0A0 on (10_state.md R50). -/
theorem windowRows_take (d : Dir) (b : Byte) :
    Takes windowRows d b ↔ 0xA0 ≤ b.toNat ∧ b.toNat ≤ 0xBF := by
  have hread : (d.bit ++ b &&& 0x1E0#9 = 0x0A0#9) ↔ d = .read ∧ 0xA0 ≤ b.toNat ∧ b.toNat ≤ 0xBF :=
    windowMask_dirKey (e := .read) (c := 0xA0#8) rfl
  have hwrite : (d.bit ++ b &&& 0x1E0#9 = 0x1A0#9) ↔ d = .write ∧ 0xA0 ≤ b.toNat ∧ b.toNat ≤ 0xBF :=
    windowMask_dirKey (e := .write) (c := 0xA0#8) rfl
  simp only [Takes, windowRows, KeyRow.hit, List.exists_mem_cons_iff, List.not_mem_nil, beq_iff_eq, hread, hwrite]
  cases d <;> simp

theorem keyRows_take (d : Dir) (b : Byte) :
    Takes keyRows d b ↔ Takes statusRows d b ∨ Takes inertRows d b ∨ Takes sequencerRows d b ∨
      Takes controlRows d b ∨ Takes windowRows d b := by
  simp [Takes, keyRows, or_and_right, exists_or]

/-- The rows are at every offset of the region but the unknown ones. -/
theorem keyRows_take_iff_known (d : Dir) (b : Byte) (hb : b.toNat < 0x0C0) :
    Takes keyRows d b ↔ ¬ UnknownOffset b.toNat := by
  rw [keyRows_take, statusRows_take, inertRows_take, sequencerRows_take, controlRows_take, windowRows_take,
    UnknownOffset]
  omega

/-- A key that some row takes decodes to an operation (30_encoding.md R148). -/
theorem decodeKey_of_takes {d : Dir} {b : Byte} (v : Byte) (h : Takes keyRows d b) :
    ∃ i, decodeKey (d.bit ++ b) v = .instr i := by
  obtain ⟨r, hr⟩ := Option.isSome_iff_exists.1 (List.find?_isSome.2 h)
  exact ⟨r.build (d.bit ++ b) v, by rw [decodeKey, hr]⟩

/-- A key that no row takes decodes to the UNKNOWN operation of its direction (41_register_ops.md R212). -/
theorem decodeKey_of_not_takes {d : Dir} {b : Byte} (v : Byte) (h : ¬ Takes keyRows d b) :
    decodeKey (d.bit ++ b) v = .reject (if d = .write then .unknownWrite else .unknownRead) := by
  have hnone : keyRows.find? (fun r => r.hit (d.bit ++ b)) = none :=
    List.find?_eq_none.2 fun r hr hhit => h ⟨r, hr, hhit⟩
  rw [decodeKey, hnone]
  simp only [dirKey_bit8, decide_eq_true_eq]

/-- An accepted access decodes as its key does (20_memory.md R104). -/
theorem decodeAccess_of_accepted {a : Access} (hsize : a.size = 1) (hoffset : a.offset < 0x0C0) :
    decodeAccess a = decodeKey (a.dir.bit ++ BitVec.ofNat 8 a.offset) a.byte := by
  have haccepted : a.accepted = true := by simp [Access.accepted, regionSize, hsize, hoffset]
  rw [decodeAccess, if_pos haccepted, Access.key]

/-- Settles O6: the list of 10_state.md R51 is what the rows of the key table leave out of the region. -/
theorem unknownOffsetsExactly : Obligations.UnknownOffsetsExactly := by
  intro a hsize hoffset
  have hbyte : (BitVec.ofNat 8 a.offset).toNat = a.offset := by simp; omega
  have htakes := keyRows_take_iff_known a.dir (BitVec.ofNat 8 a.offset) (hbyte.symm ▸ hoffset)
  rw [hbyte] at htakes
  rw [decodeAccess_of_accepted hsize hoffset]
  constructor
  · intro hunknown
    rw [decodeKey_of_not_takes a.byte fun h => htakes.1 h hunknown]
    cases a.dir <;> rfl
  · exact fun hknown => decodeKey_of_takes a.byte (htakes.2 hknown)

end Sys2Proof.Proofs
end

section
/-! The stores (20_memory.md R100, 10_state.md R54): a store in canonical form is determined by its reads. -/

namespace Sys2Proof.Proofs

open Sys2Proof Sys2Proof.Machine

/-- The canonical form, cell by cell. -/
theorem wfFrom_cons {lo a : Nat} {v : Byte} {m : Memory} :
    Memory.wfFrom lo ((a, v) :: m) = true ↔ lo ≤ a ∧ v ≠ 0x00#8 ∧ Memory.wfFrom (a + 1) m = true := by
  simp [Memory.wfFrom, and_assoc]

theorem read_cons_same (a : Nat) (v : Byte) (m : Memory) : Memory.read ((a, v) :: m) a = v := by
  simp [Memory.read]

theorem read_cons_other {a b : Nat} (v : Byte) (m : Memory) (h : b ≠ a) :
    Memory.read ((a, v) :: m) b = Memory.read m b := by
  simp [Memory.read, h]

/-- Nothing is listed below the lower bound of a canonical form. -/
theorem read_eq_zero_of_lt {m : Memory} {lo a : Nat} (hm : Memory.wfFrom lo m = true) (ha : a < lo) :
    Memory.read m a = 0x00#8 := by
  induction m generalizing lo with
  | nil => rfl
  | cons c m ih =>
    obtain ⟨b, v⟩ := c
    obtain ⟨hlo, _, htail⟩ := wfFrom_cons.1 hm
    rw [read_cons_other v m (by omega)]
    exact ih htail (by omega)

/-- The first cell of a canonical form does not read zero, so a canonical form that reads alike begins no later. -/
theorem le_of_read_eq {m n : Memory} {lo a b : Nat} {v w : Byte} (hm : Memory.wfFrom lo ((a, v) :: m) = true)
    (hn : Memory.wfFrom lo ((b, w) :: n) = true)
    (hread : ∀ c, Memory.read ((a, v) :: m) c = Memory.read ((b, w) :: n) c) : b ≤ a := by
  obtain ⟨_, hv, _⟩ := wfFrom_cons.1 hm
  obtain ⟨_, hw, htail⟩ := wfFrom_cons.1 hn
  by_contra hlt
  have hfrom : Memory.wfFrom b ((b, w) :: n) = true := wfFrom_cons.2 ⟨le_rfl, hw, htail⟩
  have hzero : Memory.read ((b, w) :: n) a = 0x00#8 := read_eq_zero_of_lt hfrom (by omega)
  exact hv (by rw [← read_cons_same a v m, hread a, hzero])

/-- A canonical form that reads zero everywhere lists nothing. -/
theorem eq_nil_of_read_eq_zero {m : Memory} {lo : Nat} (hm : Memory.wfFrom lo m = true)
    (hread : ∀ c, Memory.read m c = 0x00#8) : m = [] := by
  cases m with
  | nil => rfl
  | cons c m =>
    obtain ⟨a, v⟩ := c
    obtain ⟨_, hv, _⟩ := wfFrom_cons.1 hm
    exact absurd (by rw [← read_cons_same a v m, hread a]) hv

/-- Two canonical forms that read alike are equal, cell by cell from the lowest address. -/
theorem eq_of_read_eq {m n : Memory} {lo : Nat} (hm : Memory.wfFrom lo m = true) (hn : Memory.wfFrom lo n = true)
    (hread : ∀ c, Memory.read m c = Memory.read n c) : m = n := by
  induction m generalizing n lo with
  | nil => exact (eq_nil_of_read_eq_zero hn fun c => (hread c).symm).symm
  | cons c m ih =>
    obtain ⟨a, v⟩ := c
    cases n with
    | nil => exact eq_nil_of_read_eq_zero hm hread
    | cons d n =>
      obtain ⟨b, w⟩ := d
      obtain rfl : a = b := le_antisymm (le_of_read_eq hn hm fun c => (hread c).symm) (le_of_read_eq hm hn hread)
      obtain rfl : v = w := by rw [← read_cons_same a v m, hread a, read_cons_same]
      obtain ⟨_, _, hmTail⟩ := wfFrom_cons.1 hm
      obtain ⟨_, _, hnTail⟩ := wfFrom_cons.1 hn
      have htails : ∀ c, Memory.read m c = Memory.read n c := by
        intro c
        rcases eq_or_ne c a with rfl | hne
        · rw [read_eq_zero_of_lt hmTail (by omega), read_eq_zero_of_lt hnTail (by omega)]
        · rw [← read_cons_other v m hne, hread c, read_cons_other v n hne]
      rw [ih hmTail hnTail htails]

/-- Settles O59: the uniqueness from address 0 on. -/
theorem canonicalStoresAreEqual : Obligations.CanonicalStoresAreEqual :=
  fun _ _ hm hn hread => eq_of_read_eq hm hn hread

end Sys2Proof.Proofs
end

section
/-! The acceptance of one host access (20_memory.md R104, R105): which operation it runs, and that it always answers. -/

namespace Sys2Proof.Proofs

open Sys2Proof Sys2Proof.Machine

/-- While the engine cannot step, a step takes the next access off the inputs and accepts it (20_memory.md R109). -/
theorem step_of_access {s : State} {a : Access} {rest : List Input} (hc : s.canStep = false)
    (hin : s.inputs = .access a :: rest) : step s = acceptAccess a { s with inputs := rest } := by
  rw [step, transition, hin, hc]
  rfl

theorem acceptAccess_of_instr {a : Access} {i : Instr} (h : decodeAccess a = .instr i) (s : State) :
    acceptAccess a s = exec i s := by
  rw [acceptAccess, h]

/-- Settles O9: the access is accepted, and its acceptance is the operation it decodes to. -/
theorem stepRunsDecodedAccess : Obligations.StepRunsDecodedAccess := by
  intro s a rest i hc hin hi
  rw [step_of_access hc hin, acceptAccess_of_instr hi]

/-- What the read data shows after an access that is not accepted (20_memory.md R105). -/
def absorbedData (a : Access) (s : State) : List Byte :=
  match a.dir with
  | .read => List.replicate a.size unknownRead
  | .write => s.rdata

/-- An access that is not accepted changes at most the read data (20_memory.md R105). -/
theorem acceptAccess_of_not_accepted {a : Access} (h : a.accepted = false) (s : State) :
    acceptAccess a s = .next { s with rdata := absorbedData a s } := by
  rw [acceptAccess, decodeAccess, h, absorbedData]
  cases a.dir <;> rfl

/-- The block accepts no access of another size than 1, and none beyond the region (20_memory.md R102). -/
theorem accepted_eq_false {a : Access} (h : a.size ≠ 1 ∨ 0x0C0 ≤ a.offset) : a.accepted = false := by
  rcases h with hsize | hoffset
  · simp [Access.accepted, hsize]
  · simp [Access.accepted, regionSize, hoffset]

/-- Settles O12: such an access is not accepted, so its acceptance is the absorption. -/
theorem stepAbsorbsUnacceptedAccess : Obligations.StepAbsorbsUnacceptedAccess := by
  intro s a rest hc hin hout
  rw [step_of_access hc hin, acceptAccess_of_not_accepted (accepted_eq_false hout)]
  rfl

@[simp] theorem storeSeqctl_inputs (v : Byte) (s : State) : (storeSeqctl v s).inputs = s.inputs := rfl
@[simp] theorem startLoad_inputs (edge : Bool) (s : State) : (startLoad edge s).inputs = s.inputs := by
  unfold startLoad; split <;> rfl
@[simp] theorem dequeueOutput_inputs (s : State) : (dequeueOutput s).2.inputs = s.inputs := by
  unfold dequeueOutput; split <;> rfl

/-- No host operation touches the inputs still to come (log 2). -/
theorem hostEffect_inputs {i : Instr} {s t : State} (he : HostEffect s i t) : t.inputs = s.inputs := by
  cases he with
  | writesPhase v =>
    rcases phaseWrite_cases v s with hsame | ⟨p, hrequest⟩
    · rw [hsame]
    · rw [hrequest, phaseRequest_inputs]
  | setsSeqctl v =>
    rw [startLoad_inputs, storeSeqctl_inputs]
    split <;> simp
  | _ => simp

theorem acceptInput_inputs {i : Input} {s t : State} (ha : acceptInput i s = .next t) : t.inputs = s.inputs := by
  rcases acceptInput_cases ha with ⟨a, j, _, _, hj, he⟩ | ⟨a, d, _, _, rfl⟩ | ⟨_, rfl⟩ | ⟨_, rfl⟩ | ⟨_, rfl⟩
  · exact hostEffect_inputs (hostEffect_of_exec hj he)
  · rfl
  · exact resetOp_inputs s
  · exact raiseCause_inputs _ s
  · exact raiseCause_inputs _ s

/-- Every access is answered with a next state (70_reset_and_hazards.md R373). -/
theorem acceptAccess_isNext (a : Access) (s : State) : ∃ t, acceptAccess a s = .next t := by
  cases hd : decodeAccess a with
  | instr i =>
    obtain ⟨t, ht, _⟩ := exec_hostEffect (decodeAccess_not_isSequencer hd) s
    exact ⟨t, by rw [acceptAccess_of_instr hd, ht]⟩
  | reject r =>
    rw [acceptAccess, hd]
    cases r <;> exact ⟨_, rfl⟩

end Sys2Proof.Proofs
end

section
/-! The run (40_sequencer.md R172, R175): every engine step answers a next state, keeps the inputs and lowers the measure
or leaves the engine unable to step, so that `runFor` ends and single steps do the same. -/

namespace Sys2Proof.Proofs

open Sys2Proof Sys2Proof.Machine

/-! ### The measure -/

/-- A command that has been sent goes on to a data phase or to Status (43_phase_ops.md R295). -/
theorem afterCommand_cases (scb : Memory) (i : Byte) :
    afterCommand scb i = .dataIn ∨ afterCommand scb i = .dataOut ∨ afterCommand scb i = .status := by
  unfold afterCommand dataPhase
  split
  · split
    · exact .inl rfl
    · exact .inr (.inl rfl)
  · exact .inr (.inr rfl)

/-- Each phase advance before MsgIn is one step closer to completion (40_sequencer.md R175). -/
theorem remaining_nextPhase_lt (scb : Memory) (i : Byte) {p : Phase} (hp : p ≠ .msgIn) :
    (nextPhase scb i p).remaining < p.remaining := by
  cases p with
  | msgIn => exact absurd rfl hp
  | command | msgOut =>
    rcases afterCommand_cases scb i with h | h | h <;> simp [nextPhase, h, Phase.remaining]
  | busFree | arbitration | selection | dataIn | dataOut | status => simp [nextPhase, Phase.remaining]

/-- A phase request reaches the phase it asks for, or faults. -/
theorem phaseRequest_phase_or_halted (p : Phase) (s : State) :
    (phaseRequest p s).phase = p ∨ (phaseRequest p s).halted = true := by
  rcases phaseRequest_cases p s with ⟨hp, hsame⟩ | ⟨_, _, hmove⟩ | ⟨_, _, hfault⟩
  · rw [hsame]; exact .inl hp.symm
  · rw [hmove]; exact .inl (movePhase_phase p s)
  · rw [hfault]; exact .inr (seqFault_halted _ _)

/-- The progress action lowers the measure or faults (40_sequencer.md R175). -/
theorem measure_progress {s t : State} (hp : progress s = .next t) : t.measure < s.measure ∨ t.halted = true := by
  rcases progress_cases hp with ⟨i, rest, ha, hq, rfl⟩ | ⟨i, ha, hphase, _, rfl⟩ | ⟨i, ha, hphase, rfl⟩
  · rcases phaseRequest_phase_or_halted .arbitration { s with qin := rest, active := some i } with h | h
    · left
      simp [State.measure, h, ha, hq, Phase.remaining]
      omega
    · exact .inr h
  · left
    simp [State.measure, ha, hphase, Phase.remaining]
  · rcases phaseRequest_phase_or_halted (nextPhase s.scb i s.phase) s with h | h
    · left
      simpa [State.measure, h, ha] using remaining_nextPhase_lt s.scb i hphase
    · exact .inr h

@[simp] theorem singleStepPause_measure (s : State) : (singleStepPause s).measure = s.measure := by
  simp [State.measure]

theorem canStep_of_halted {s : State} (h : s.halted = true) : s.canStep = false := by
  simp [State.canStep, h]

/-- An engine step lowers the measure or leaves the engine unable to step (40_sequencer.md R175). -/
theorem measure_engineStep {s t : State} (hc : s.canStep = true) (hs : step s = .next t) :
    t.measure < s.measure ∨ t.canStep = false := by
  rcases engineStep_cases hc hs with ⟨pc, stack, sp, hr⟩ | ⟨f, _, rfl⟩ | ⟨pc, rfl⟩
  · obtain ⟨u, hu, rfl⟩ := retire_cases hr
    rcases measure_progress hu with hlower | hhalt
    · exact .inl (by rw [singleStepPause_measure]; exact hlower)
    · exact .inr (canStep_of_halted (by rw [singleStepPause_halted]; exact hhalt))
  · exact .inr (canStep_of_halted (seqFault_halted f s))
  · exact .inr (canStep_of_halted (seqHalt_halted _))

/-! ### What an engine step answers -/

/-- With work and no stall every sequencer instruction answers a next state. -/
theorem exec_sequencer_isNext {i : Instr} {s : State} (hi : i.isSequencer = true) (hw : s.hasWork = true)
    (hs : s.stalled = false) : ∃ t, exec i s = .next t := by
  cases i with
  | opaqueWord _ | jmp _ | jz _ _ | jnz _ _ | je _ _ | jne _ _ => exact retire_isNext hw hs
  | call a =>
    simp only [exec, execCall]
    split
    · exact retire_isNext hw hs
    · exact ⟨_, rfl⟩
  | ret =>
    simp only [exec, execRet]
    split
    · exact retire_isNext hw hs
    · exact ⟨_, rfl⟩
  | halt => exact ⟨_, rfl⟩
  | _ => exact Bool.noConfusion hi

/-- While the engine can step, a step is an engine step (20_memory.md R109). -/
theorem step_of_canStep {s : State} (hc : s.canStep = true) : step s = seqStep s := by
  rw [step, transition, if_pos hc]

/-- Every engine step answers a next state (70_reset_and_hazards.md R373). -/
theorem engineStep_isNext {s : State} (hc : s.canStep = true) : ∃ t, step s = .next t := by
  obtain ⟨_, _, _, hw, hs⟩ := (canStep_iff s).1 hc
  rw [step_of_canStep hc, seqStep, execWord]
  split
  · exact ⟨_, rfl⟩
  · split
    · next hd => exact exec_sequencer_isNext (decodeWord_isSequencer hd) hw hs
    · exact ⟨_, rfl⟩

theorem progress_inputs {s t : State} (hp : progress s = .next t) : t.inputs = s.inputs := by
  rcases progress_cases hp with ⟨i, rest, _, _, rfl⟩ | ⟨i, _, _, _, rfl⟩ | ⟨i, _, _, rfl⟩ <;> simp

theorem engineStep_inputs {s t : State} (hc : s.canStep = true) (hs : step s = .next t) : t.inputs = s.inputs := by
  rcases engineStep_cases hc hs with ⟨pc, stack, sp, hr⟩ | ⟨f, _, rfl⟩ | ⟨pc, rfl⟩
  · obtain ⟨u, hu, rfl⟩ := retire_cases hr
    rw [singleStepPause_inputs, progress_inputs hu]
  · exact seqFault_inputs f s
  · exact seqHalt_inputs _

/-! ### The run is the engine's steps -/

theorem runFor_of_not_canStep {s : State} (hc : s.canStep = false) (n : Nat) : runFor n s = .next s := by
  cases n with
  | zero => rfl
  | succ n => rw [runFor, hc]; rfl

theorem runFor_succ {s t : State} (hc : s.canStep = true) (hs : step s = .next t) (n : Nat) :
    runFor (n + 1) s = runFor n t := by
  have hseq : seqStep s = .next t := step_of_canStep hc ▸ hs
  rw [runFor, if_pos hc, hseq]

theorem coreRun_succ {s t : State} (hs : step s = .next t) (k : Nat) :
    Host.Core.run Sys2Proof.core (k + 1) s = Host.Core.run Sys2Proof.core k t := by
  have hcore : Sys2Proof.core.step s = .next t := hs
  simp only [Host.Core.run, hcore]

/-- A run with fuel above the measure ends with the engine settled, and some number of steps does the same. -/
theorem runFor_settles (n : Nat) (s : State) (hn : s.measure < n ∨ s.canStep = false) :
    ∃ k t, runFor n s = .next t ∧ Host.Core.run Sys2Proof.core k s = .next t ∧ t.inputs = s.inputs ∧
      t.canStep = false := by
  induction n generalizing s with
  | zero =>
    have hc : s.canStep = false := hn.resolve_left (Nat.not_lt_zero _)
    exact ⟨0, s, rfl, rfl, rfl, hc⟩
  | succ n ih =>
    cases hc : s.canStep with
    | false => exact ⟨0, s, runFor_of_not_canStep hc _, rfl, rfl, hc⟩
    | true =>
      obtain ⟨u, hu⟩ := engineStep_isNext hc
      have hfuel : u.measure < n ∨ u.canStep = false := by
        rcases measure_engineStep hc hu with hlower | hstop
        · have hlt : s.measure < n + 1 := hn.resolve_right (by simp [hc])
          exact .inl (by omega)
        · exact .inr hstop
      obtain ⟨k, t, hrun, hsteps, hinputs, hend⟩ := ih u hfuel
      exact ⟨k + 1, t, by rw [runFor_succ hc hu, hrun], by rw [coreRun_succ hu, hsteps],
        hinputs.trans (engineStep_inputs hc hu), hend⟩

/-- `Run()` ends with the engine settled, and some number of steps does the same (40_sequencer.md R172, R175). -/
theorem run_settles (s : State) :
    ∃ k t, run s = .next t ∧ Host.Core.run Sys2Proof.core k s = .next t ∧ t.inputs = s.inputs ∧ t.canStep = false :=
  runFor_settles (s.measure + 1) s (.inl (Nat.lt_succ_self _))

/-! ### The whole access -/

theorem access_of_accepted {a : Access} {s u : State} (hacc : a.accepted = true)
    (hu : acceptAccess a s = .next u) : access a s = run u := by
  rw [access, hu]
  exact if_pos hacc

/-- No run follows an absorbed access (20_memory.md R105). -/
theorem access_of_not_accepted {a : Access} {s u : State} (hacc : a.accepted = false)
    (hu : acceptAccess a s = .next u) : access a s = .next u := by
  rw [access, hu]
  exact if_neg (by simp [hacc])

/-- Settles O53: the first step is the register effect; after an accepted access the steps of the run follow, after an
absorbed one the engine is as unable to step as before. -/
theorem stepsRealiseWholeAccess : Obligations.StepsRealiseWholeAccess := by
  intro s a rest hc hin
  obtain ⟨u, hu⟩ := acceptAccess_isNext a { s with inputs := rest }
  have hstep : step s = .next u := (step_of_access hc hin).trans hu
  have hinputs : u.inputs = rest := acceptInput_inputs (i := .access a) hu
  cases hacc : a.accepted with
  | true =>
    obtain ⟨k, t, hrun, hsteps, hkeep, hend⟩ := run_settles u
    exact ⟨k + 1, t, by rw [access_of_accepted hacc hu, hrun], by rw [coreRun_succ hstep, hsteps],
      hkeep.trans hinputs, hend⟩
  | false =>
    have hsettled : u.canStep = false := by
      rw [acceptAccess_of_not_accepted hacc] at hu
      cases hu
      exact hc
    exact ⟨1, u, access_of_not_accepted hacc hu, coreRun_succ hstep 0, hinputs, hsettled⟩

end Sys2Proof.Proofs
end

section
/-! Sequencer words (30_encoding.md R141 to R146): a word is its bit 31 and its fields, and the decoder of a control-flow
word is a function of the fields. -/

namespace Sys2Proof.Proofs

open Sys2Proof Sys2Proof.Machine

/-- A word with `rsv` = 0 is the word of its other three fields (30_encoding.md R141). -/
theorem seqWord_fields {w : SeqWord} (h : rsvField w = 0#11) :
    seqWord (opField w) (addrField w) (immField w) = w := by
  have hrsv : w.toNat / 2 ^ 17 % 2 ^ 11 = 0 := by
    simpa [rsvField, Nat.shiftRight_eq_div_pow] using congrArg BitVec.toNat h
  apply BitVec.eq_of_toNat_eq
  have := w.isLt
  simp only [seqWord_toNat, opField, addrField, immField, BitVec.extractLsb'_toNat, Nat.shiftRight_eq_div_pow]
  omega

/-- Bit 31 of a word is the top bit of its opcode (30_encoding.md R143, R144). -/
theorem opField_bit3 (w : SeqWord) : (opField w)[3] = w[31] := by
  simp [opField]

/-- The answer for a control-flow word with `rsv` = 0, by its other fields (30_encoding.md R144, R145). -/
def decodeFields (op : BitVec 4) (addr : SeqAddr) (imm : Byte) : Decoded :=
  match op with
  | 0x8#4 => ifZero (imm == 0) (.jmp addr)
  | 0x9#4 => .instr (.jz imm addr)
  | 0xA#4 => .instr (.jnz imm addr)
  | 0xB#4 => ifZero (imm == 0) (.call addr)
  | 0xC#4 => .instr (.je imm addr)
  | 0xD#4 => .instr (.jne imm addr)
  | 0xE#4 => ifZero (addr == 0 && imm == 0) .ret
  | 0xF#4 => ifZero (addr == 0 && imm == 0) .halt
  | _ => .reject .malformed

theorem decodeWord_opaque {w : SeqWord} (h : w[31] = false) : decodeWord w = .instr (.opaqueWord w) := if_pos h

theorem decodeWord_of_rsv {w : SeqWord} (h : w[31] = true) (hrsv : rsvField w ≠ 0#11) :
    decodeWord w = .reject .malformed := by
  rw [decodeWord, if_neg (by simp [h]), if_pos (show rsvField w ≠ 0 from hrsv)]

theorem decodeWord_fields {w : SeqWord} (h : w[31] = true) (hrsv : rsvField w = 0#11) :
    decodeWord w = decodeFields (opField w) (addrField w) (immField w) := by
  rw [decodeWord, if_neg (by simp [h]), if_neg (show ¬ rsvField w ≠ 0 from not_not.2 hrsv)]
  rfl

/-- A control-flow word built from its fields decodes by them. -/
theorem decodeWord_seqWord {op : BitVec 4} (hop : op[3] = true) (addr : SeqAddr) (imm : Byte) :
    decodeWord (seqWord op addr imm) = decodeFields op addr imm := by
  rw [decodeWord_fields ((seqWord_bit31 op addr imm).trans hop) (rsvField_seqWord op addr imm), opField_seqWord,
    addrField_seqWord, immField_seqWord]

/-- The eight opcodes of the control-flow words (30_encoding.md R144). -/
theorem controlOp_cases {op : BitVec 4} (hop : op[3] = true) :
    op = 0x8#4 ∨ op = 0x9#4 ∨ op = 0xA#4 ∨ op = 0xB#4 ∨ op = 0xC#4 ∨ op = 0xD#4 ∨ op = 0xE#4 ∨ op = 0xF#4 := by
  decide +revert

theorem ifZero_eq_instr {z : Bool} {i j : Instr} : ifZero z i = .instr j ↔ z = true ∧ i = j := by
  cases z <;> simp [ifZero]

theorem ifZero_eq_reject {z : Bool} {i : Instr} {r : Reject} :
    ifZero z i = .reject r ↔ z = false ∧ r = .malformed := by
  cases z <;> simp [ifZero, eq_comm]

/-- What the fields decode to is well formed, and its code has those fields: a field the instruction does not carry is
zero. -/
theorem encode_of_decodeFields {op : BitVec 4} {addr : SeqAddr} {imm : Byte} {i : Instr}
    (h : decodeFields op addr imm = .instr i) : i.wf = true ∧ encode i = .word (seqWord op addr imm) := by
  unfold decodeFields at h
  split at h
  case h_1 | h_4 =>
    obtain ⟨himm, rfl⟩ := ifZero_eq_instr.1 h
    rw [eq_of_beq himm]
    exact ⟨rfl, rfl⟩
  case h_2 | h_3 | h_5 | h_6 =>
    cases h
    exact ⟨rfl, rfl⟩
  case h_7 | h_8 =>
    obtain ⟨hzero, rfl⟩ := ifZero_eq_instr.1 h
    obtain ⟨haddr, himm⟩ := Bool.and_eq_true_iff.1 hzero
    rw [eq_of_beq haddr, eq_of_beq himm]
    exact ⟨rfl, rfl⟩
  case h_9 => cases h

/-- A field of a control-flow word other than `rsv` must be zero and is not (30_encoding.md R145). -/
def FieldsMalformed (op : BitVec 4) (addr : SeqAddr) (imm : Byte) : Prop :=
  ((op = 0x8#4 ∨ op = 0xB#4) ∧ imm ≠ 0#8) ∨ ((op = 0xE#4 ∨ op = 0xF#4) ∧ (addr ≠ 0#9 ∨ imm ≠ 0#8))

theorem decodeFields_eq_reject {op : BitVec 4} (hop : op[3] = true) {addr : SeqAddr} {imm : Byte} {r : Reject} :
    decodeFields op addr imm = .reject r ↔ r = .malformed ∧ FieldsMalformed op addr imm := by
  rcases controlOp_cases hop with rfl | rfl | rfl | rfl | rfl | rfl | rfl | rfl <;>
    simp [decodeFields, FieldsMalformed, ifZero_eq_reject, and_comm, imp_iff_not_or]

/-- The rejected words (30_encoding.md R145, R146). -/
theorem decodeWord_eq_reject {w : SeqWord} {r : Reject} :
    decodeWord w = .reject r ↔ r = .malformed ∧ w[31] = true ∧
      (rsvField w ≠ 0#11 ∨ FieldsMalformed (opField w) (addrField w) (immField w)) := by
  cases hbit : w[31] with
  | false => simp [decodeWord_opaque hbit]
  | true =>
    by_cases hrsv : rsvField w = 0#11
    · rw [decodeWord_fields hbit hrsv, decodeFields_eq_reject ((opField_bit3 w).trans hbit)]
      simp [hrsv]
    · simp [decodeWord_of_rsv hbit hrsv, hrsv, eq_comm]

/-- Settles O4: `decodeWord_eq_reject` says both halves. -/
theorem malformedWordsExactly : Obligations.MalformedWordsExactly := by
  intro w
  refine ⟨⟨fun ⟨r, hr⟩ => (decodeWord_eq_reject.1 hr).2, fun hbad => ⟨.malformed, ?_⟩⟩,
    fun r hr => (decodeWord_eq_reject.1 hr).1⟩
  exact decodeWord_eq_reject.2 ⟨rfl, hbad⟩

/-- Settles O3: an opaque word is its own code; a control-flow word is the word of its fields, and what they decode to
has the code of those fields. -/
theorem decodedWordReencodes : Obligations.DecodedWordReencodes := by
  intro w i h
  cases hbit : w[31] with
  | false =>
    rw [decodeWord_opaque hbit] at h
    cases h
    exact ⟨by simp [Instr.wf, hbit], rfl⟩
  | true =>
    by_cases hrsv : rsvField w = 0#11
    · rw [decodeWord_fields hbit hrsv] at h
      simpa only [seqWord_fields hrsv] using encode_of_decodeFields h
    · rw [decodeWord_of_rsv hbit hrsv] at h
      cases h

end Sys2Proof.Proofs
end

section
/-! Host accesses (30_encoding.md R148, 20_memory.md R104): the operation a row of the key table builds is encoded as the
access the row takes, and the key of an operation's access finds the row that builds it. -/

namespace Sys2Proof.Proofs

open Sys2Proof Sys2Proof.Machine

/-- The access of direction `d` at offset `o`, which writes `v` if it is a write. -/
def portAccess (d : Dir) (o : Nat) (v : Byte) : Access :=
  match d with
  | .read => readAccess o
  | .write => writeAccess o v

theorem portAccess_dir (d : Dir) (o : Nat) (v : Byte) : (portAccess d o v).dir = d := by cases d <;> rfl
theorem portAccess_offset (d : Dir) (o : Nat) (v : Byte) : (portAccess d o v).offset = o := by cases d <;> rfl
theorem portAccess_size (d : Dir) (o : Nat) (v : Byte) : (portAccess d o v).size = 1 := by cases d <;> rfl

theorem writeAccess_byte (o : Nat) (v : Byte) : (writeAccess o v).byte = v := by
  simp [writeAccess, Access.byte]

/-- Every access the row takes is the code of the operation the row builds from it. -/
def RowEncodes (r : KeyRow) : Prop :=
  ∀ (d : Dir) (b v : Byte), r.hit (d.bit ++ b) = true →
    encode (r.build (d.bit ++ b) v) = .access (portAccess d b.toNat v)

theorem readRow_encodes {o : Byte} {i : Instr} (h : encode i = .access (readAccess o.toNat)) :
    RowEncodes (readRow o i) := by
  intro d b v hhit
  obtain ⟨rfl, hb⟩ := (readRow_hit o b i d).1 hhit
  rw [hb]
  exact h

theorem writeRow_encodes {o : Byte} {f : Byte → Instr}
    (h : ∀ v, encode (f v) = .access (writeAccess o.toNat v)) : RowEncodes (writeRow o f) := by
  intro d b v hhit
  obtain ⟨rfl, hb⟩ := (writeRow_hit o b f d).1 hhit
  rw [hb]
  exact h v

/-- Rows in pairs: the read and the write at one offset, whose operations have those codes. -/
theorem readWriteRows_encode {o : Byte} {i : Instr} {f : Byte → Instr} {rows : List KeyRow}
    (hread : encode i = .access (readAccess o.toNat)) (hwrite : ∀ v, encode (f v) = .access (writeAccess o.toNat v))
    (hrows : ∀ r ∈ rows, RowEncodes r) : ∀ r ∈ readRow o i :: writeRow o f :: rows, RowEncodes r :=
  List.forall_mem_cons.2 ⟨readRow_encodes hread, List.forall_mem_cons.2 ⟨writeRow_encodes hwrite, hrows⟩⟩

theorem statusRows_encode : ∀ r ∈ statusRows, RowEncodes r := by
  repeat refine readWriteRows_encode rfl (fun _ => rfl) ?_
  exact List.forall_mem_nil _

theorem inertRows_encode : ∀ r ∈ inertRows, RowEncodes r := by
  repeat refine readWriteRows_encode rfl (fun _ => rfl) ?_
  exact List.forall_mem_nil _

theorem sequencerRows_encode : ∀ r ∈ sequencerRows, RowEncodes r := by
  repeat refine readWriteRows_encode rfl (fun _ => rfl) ?_
  exact List.forall_mem_nil _

theorem controlRows_encode : ∀ r ∈ controlRows, RowEncodes r := by
  repeat refine readWriteRows_encode rfl (fun _ => rfl) ?_
  exact List.forall_mem_nil _

/-- The window byte of a key is the offset's low five bits (10_state.md R50). -/
theorem windowByte_toNat (d : Dir) (b : Byte) : (windowByte (d.bit ++ b)).toNat = b.toNat % 32 := by
  rw [windowByte, BitVec.extractLsb'_toNat, dirKey_toNat, Nat.shiftRight_zero]
  omega

theorem windowByte_offset {d : Dir} {b : Byte} (hb : 0xA0 ≤ b.toNat ∧ b.toNat ≤ 0xBF) :
    0x0A0 + (windowByte (d.bit ++ b)).toNat = b.toNat := by
  rw [windowByte_toNat]
  omega

theorem windowReadRow_hit (d : Dir) (b : Byte) :
    d.bit ++ b &&& 0x1E0#9 = 0x0A0#9 ↔ d = .read ∧ 0xA0 ≤ b.toNat ∧ b.toNat ≤ 0xBF :=
  windowMask_dirKey (e := .read) (c := 0xA0#8) rfl

theorem windowWriteRow_hit (d : Dir) (b : Byte) :
    d.bit ++ b &&& 0x1E0#9 = 0x1A0#9 ↔ d = .write ∧ 0xA0 ≤ b.toNat ∧ b.toNat ≤ 0xBF :=
  windowMask_dirKey (e := .write) (c := 0xA0#8) rfl

theorem windowRows_encode : ∀ r ∈ windowRows, RowEncodes r := by
  refine List.forall_mem_cons.2 ⟨?read, List.forall_mem_cons.2 ⟨?write, List.forall_mem_nil _⟩⟩
  case read =>
    intro d b v hhit
    obtain ⟨rfl, hb⟩ := (windowReadRow_hit d b).1 (eq_of_beq hhit)
    simp only [encode, windowByte_offset hb, portAccess]
  case write =>
    intro d b v hhit
    obtain ⟨rfl, hb⟩ := (windowWriteRow_hit d b).1 (eq_of_beq hhit)
    simp only [encode, windowByte_offset hb, portAccess]

theorem keyRows_encode : ∀ r ∈ keyRows, RowEncodes r := by
  intro r hr
  simp only [keyRows, List.mem_append] at hr
  rcases hr with (((h | h) | h) | h) | h
  · exact statusRows_encode r h
  · exact inertRows_encode r h
  · exact sequencerRows_encode r h
  · exact controlRows_encode r h
  · exact windowRows_encode r h

/-- The operation a key decodes to has the access of that key as its code. -/
theorem encode_of_decodeKey {d : Dir} {b v : Byte} {i : Instr} (h : decodeKey (d.bit ++ b) v = .instr i) :
    encode i = .access (portAccess d b.toNat v) := by
  unfold decodeKey at h
  split at h
  next r hr =>
    cases h
    have hhit : r.hit (d.bit ++ b) = true := by simpa using List.find?_some hr
    exact keyRows_encode r (List.mem_of_find?_eq_some hr) d b v hhit
  next => cases h

/-- Only an accepted access decodes to an operation (20_memory.md R105). -/
theorem accepted_of_decodeAccess {a : Access} {i : Instr} (h : decodeAccess a = .instr i) :
    a.size = 1 ∧ a.offset < 0x0C0 := by
  by_contra hout
  have hrej : a.accepted = false := accepted_eq_false (by omega)
  simp only [decodeAccess, hrej] at h
  cases hd : a.dir <;> simp [hd] at h

/-- Settles O5: the access is accepted, so it decodes as its key does, and the operation of the key is encoded as the
access of the key's direction and offset and of the byte written. -/
theorem decodedAccessReencodes : Obligations.DecodedAccessReencodes := by
  intro a i h
  obtain ⟨hsize, hoffset⟩ := accepted_of_decodeAccess h
  have hbyte : (BitVec.ofNat 8 a.offset).toNat = a.offset := by simp; omega
  rw [decodeAccess_of_accepted hsize hoffset] at h
  have hcode := encode_of_decodeKey h
  rw [hbyte] at hcode
  refine ⟨_, hcode, portAccess_dir .., portAccess_offset .., (portAccess_size ..).trans hsize.symm, fun hw => ?_⟩
  rw [hw]
  exact writeAccess_byte _ _

end Sys2Proof.Proofs
end

section
/-! Decode of encode (30_encoding.md R146, R148). -/

namespace Sys2Proof.Proofs

open Sys2Proof Sys2Proof.Machine

theorem decode_readAccess {o : Nat} (ho : o < 0x0C0) :
    decode (.access (readAccess o)) = decodeKey (Dir.read.bit ++ BitVec.ofNat 8 o) 0 :=
  decodeAccess_of_accepted rfl ho

theorem decode_writeAccess {o : Nat} (ho : o < 0x0C0) (v : Byte) :
    decode (.access (writeAccess o v)) = decodeKey (Dir.write.bit ++ BitVec.ofNat 8 o) v := by
  rw [decode, decodeAccess_of_accepted rfl ho, writeAccess_byte]
  rfl

theorem find?_eq_none_of_not_takes {rows : List KeyRow} {d : Dir} {b : Byte} (h : ¬ Takes rows d b) :
    rows.find? (fun r => r.hit (d.bit ++ b)) = none :=
  List.find?_eq_none.2 fun r hr hhit => h ⟨r, hr, hhit⟩

/-- No other row takes a window offset: its key is looked up among the window rows. -/
theorem find?_keyRows_window {d : Dir} {b : Byte} (hb : 0xA0 ≤ b.toNat) :
    keyRows.find? (fun r => r.hit (d.bit ++ b)) = windowRows.find? (fun r => r.hit (d.bit ++ b)) := by
  have hstatus : ¬ Takes statusRows d b := by rw [statusRows_take]; omega
  have hinert : ¬ Takes inertRows d b := by rw [inertRows_take]; omega
  have hsequencer : ¬ Takes sequencerRows d b := by rw [sequencerRows_take]; omega
  have hcontrol : ¬ Takes controlRows d b := by rw [controlRows_take]; omega
  rw [keyRows, List.find?_append, List.find?_append, List.find?_append, List.find?_append,
    find?_eq_none_of_not_takes hstatus, find?_eq_none_of_not_takes hinert, find?_eq_none_of_not_takes hsequencer,
    find?_eq_none_of_not_takes hcontrol]
  rfl

/-- The offset of byte `k` of the window, as the byte of a key. -/
theorem windowOffset_toNat (k : BitVec 5) : (BitVec.ofNat 8 (0x0A0 + k.toNat)).toNat = 0x0A0 + k.toNat := by
  have := k.isLt
  simp; omega

theorem windowByte_windowOffset (d : Dir) (k : BitVec 5) :
    windowByte (d.bit ++ BitVec.ofNat 8 (0x0A0 + k.toNat)) = k := by
  apply BitVec.eq_of_toNat_eq
  rw [windowByte_toNat, windowOffset_toNat]
  have := k.isLt
  omega

theorem decodeKey_windowRead (k : BitVec 5) (v : Byte) :
    decodeKey (Dir.read.bit ++ BitVec.ofNat 8 (0x0A0 + k.toNat)) v = .instr (.scbwinR k) := by
  have hoffset := windowOffset_toNat k
  have := k.isLt
  rw [decodeKey, find?_keyRows_window (by omega), windowRows, List.find?_cons_of_pos]
  · simp only [windowByte_windowOffset]
  · exact beq_iff_eq.2 ((windowReadRow_hit _ _).2 ⟨rfl, by omega⟩)

theorem decodeKey_windowWrite (k : BitVec 5) (v : Byte) :
    decodeKey (Dir.write.bit ++ BitVec.ofNat 8 (0x0A0 + k.toNat)) v = .instr (.scbwinW k v) := by
  have hoffset := windowOffset_toNat k
  have := k.isLt
  rw [decodeKey, find?_keyRows_window (by omega), windowRows, List.find?_cons_of_neg, List.find?_cons_of_pos]
  · simp only [windowByte_windowOffset]
  · exact beq_iff_eq.2 ((windowWriteRow_hit _ _).2 ⟨rfl, by omega⟩)
  · intro hhit
    exact Dir.noConfusion ((windowReadRow_hit _ _).1 (eq_of_beq hhit)).1

/-- A sequencer instruction: its fields are read back and name it. -/
theorem decode_encode_of_isSequencer {i : Instr} (hi : i.isSequencer = true) (hwf : i.wf = true) :
    decode (encode i) = .instr i := by
  cases i with
  | opaqueWord w => exact decodeWord_opaque (by simpa [Instr.wf] using hwf)
  | jmp addr => exact decodeWord_seqWord rfl addr 0
  | jz imm addr => exact decodeWord_seqWord rfl addr imm
  | jnz imm addr => exact decodeWord_seqWord rfl addr imm
  | call addr => exact decodeWord_seqWord rfl addr 0
  | je imm addr => exact decodeWord_seqWord rfl addr imm
  | jne imm addr => exact decodeWord_seqWord rfl addr imm
  | ret => exact decodeWord_seqWord rfl 0 0
  | halt => exact decodeWord_seqWord rfl 0 0
  | _ => cases hi

/-- A host operation: outside the SCB window its key is one number, at which the lookup in the key table evaluates. -/
theorem decode_encode_of_not_isSequencer {i : Instr} (hi : i.isSequencer = false) : decode (encode i) = .instr i := by
  cases i with
  | opaqueWord _ | jmp _ | jz _ _ | jnz _ _ | call _ | je _ _ | jne _ _ | ret | halt => cases hi
  | scbwinR k =>
    have := k.isLt
    exact (decode_readAccess (by omega)).trans (decodeKey_windowRead k 0)
  | scbwinW k v =>
    have := k.isLt
    exact (decode_writeAccess (by omega) v).trans (decodeKey_windowWrite k v)
  | _ =>
    simp only [encode, decode_readAccess, decode_writeAccess, Nat.reduceLT]
    rfl

/-- Settles O2: the two kinds of instruction, each with its encoding. -/
theorem decodeEncodeRoundTrip : Obligations.DecodeEncodeRoundTrip := by
  intro i hwf
  cases hi : i.isSequencer with
  | true => exact decode_encode_of_isSequencer hi hwf
  | false => exact decode_encode_of_not_isSequencer hi

/-- Settles O1: each code is one number, at which the decoder evaluates. -/
theorem decodeSampleCodes : Obligations.DecodeSampleCodes := by
  unfold Obligations.DecodeSampleCodes
  decide

end Sys2Proof.Proofs
end

section
/-! The enabling condition and the fetch (40_sequencer.md R171, R173): when the engine can step, and what a step does with
the word at `pc` where no breakpoint stops it. -/

namespace Sys2Proof.Proofs

open Sys2Proof Sys2Proof.Machine

/-- There is work iff an SCB is in flight or queued (40_sequencer.md R171). -/
theorem hasWork_iff (s : State) : s.hasWork = true ↔ s.active ≠ none ∨ s.qin ≠ [] := by
  simp [State.hasWork, Option.isSome_iff_ne_none]

/-- The stall in register terms (40_sequencer.md R171, last conjunct). -/
theorem stalled_iff (s : State) :
    s.stalled = true ↔ s.active ≠ none ∧ s.phase = .msgIn ∧ s.qout.length = s.cfg.qdepth := by
  simp [State.stalled, State.qoutFull, Option.isSome_iff_ne_none, and_assoc]

/-- An engine that is neither Halted nor loading nor paused and has work is in mode Running (10_state.md R52). -/
theorem mode_eq_running {s : State} (hhalted : s.halted = false) (hpause : s.pause = false)
    (hload : s.loadram = false) (hwork : s.hasWork = true) : s.mode = .running := by
  simp [State.mode, hhalted, hpause, hload, hwork]

/-- Settles O7: the parts of the enabling condition, each in register bits; the mode by its cases. -/
theorem canStepExactly : Obligations.CanStepExactly := by
  intro s
  constructor
  · rw [canStep_iff, hasWork_iff, ← Bool.not_eq_true s.stalled, stalled_iff]
    rfl
  · intro hhalted hpause hload hactive _ _
    exact mode_eq_running hhalted hpause hload ((hasWork_iff s).2 (.inl hactive))

/-- Disabled or at another address, the breakpoint is not hit (60_exceptions.md R314). -/
theorem breakpointHit_eq_false {s : State}
    (h : s.regs.brkaddr1[7] = true ∨ s.pc ≠ BitVec.ofBool s.regs.brkaddr1[0] ++ s.regs.brkaddr0) :
    s.breakpointHit = false := by
  rcases h with hdisabled | helsewhere
  · simp [State.breakpointHit, State.brkdis, hdisabled]
  · simp [State.breakpointHit, State.brkAddr, joinAddr, helsewhere]

/-- Without a breakpoint hit an engine step executes the word at `pc` (40_sequencer.md R173). -/
theorem step_eq_execWord {s : State} (hc : s.canStep = true) (hb : s.breakpointHit = false) :
    step s = execWord (ramWord s.ram s.pc) s := by
  rw [step_of_canStep hc, seqStep, hb]
  rfl

theorem execWord_of_instr {w : SeqWord} {i : Instr} (h : decodeWord w = .instr i) (s : State) :
    execWord w s = exec i s := by
  rw [execWord, h]

theorem execWord_of_reject {w : SeqWord} {r : Reject} (h : decodeWord w = .reject r) (s : State) :
    execWord w s = .next (seqFault .illopcode s) := by
  rw [execWord, h]

/-- Settles O8: no breakpoint is hit, so the step executes the fetched word, which is its instruction. -/
theorem stepRunsDecodedWord : Obligations.StepRunsDecodedWord := by
  intro s i hc hbrk hi
  rw [step_eq_execWord hc (breakpointHit_eq_false hbrk), execWord_of_instr hi]

/-- Settles O10: no breakpoint is hit, so the step executes the fetched word, which raises ILLOPCODE. -/
theorem stepMalformedWordFaults : Obligations.StepMalformedWordFaults := by
  intro s r hc hbrk hr
  rw [step_eq_execWord hc (breakpointHit_eq_false hbrk), execWord_of_reject hr]
  rfl

end Sys2Proof.Proofs
end

section
/-! The frame of the engine (40_sequencer.md R189): `EngineKeeps s u` survives each shared operation on `u`, hence the
progress action, the retirement and every engine step. -/

namespace Sys2Proof.Proofs

open Sys2Proof Sys2Proof.Machine

theorem engineKeeps_refl (s : State) : EngineKeeps s s where
  accum := rfl
  sindex := rfl
  dindex := rfl
  ram := rfl
  loadAddr := rfl
  loadLane := rfl
  regs := rfl
  hcntrl := .inl rfl
  scsiint := rfl
  parerrint := rfl
  scb _ _ := rfl
  cfg := rfl
  inputs := rfl
  rdata := rfl

/-- A line update writes the line and the trace only (60_exceptions.md R321). -/
theorem engineKeeps_updateLine {s u : State} (h : EngineKeeps s u) : EngineKeeps s (updateLine u) := by
  unfold updateLine
  split
  · exact h
  · exact { h with }

/-- The engine raises its own two causes, never those of the outside (60_exceptions.md R322, R323). -/
theorem engineKeeps_raiseCause {s u : State} (h : EngineKeeps s u) {c : Cause} (hc : c = .cmdcmplt ∨ c = .brkadrint) :
    EngineKeeps s (raiseCause c u) := by
  apply engineKeeps_updateLine
  rcases hc with rfl | rfl <;> exact { h with }

theorem engineKeeps_seqHalt {s u : State} (h : EngineKeeps s u) : EngineKeeps s (seqHalt u) := by
  apply engineKeeps_raiseCause _ (.inr rfl)
  exact { h with }

theorem engineKeeps_seqFault {s u : State} (h : EngineKeeps s u) (f : SeqError) : EngineKeeps s (seqFault f u) := by
  apply engineKeeps_seqHalt
  exact { h with }

theorem engineKeeps_forceBusFree {s u : State} (h : EngineKeeps s u) : EngineKeeps s (forceBusFree u) := by
  unfold forceBusFree
  split <;> exact { h with }

theorem engineKeeps_phaseRequest {s u : State} (h : EngineKeeps s u) (p : Phase) :
    EngineKeeps s (phaseRequest p u) := by
  rcases phaseRequest_cases p u with ⟨_, hsame⟩ | ⟨_, _, hmove⟩ | ⟨_, _, hfault⟩
  · rwa [hsame]
  · rw [hmove]; exact { h with }
  · rw [hfault]; exact engineKeeps_seqFault (engineKeeps_forceBusFree h) .illphase

/-- The completion writes SCB_STATUS of the SCB in flight and no other byte of the slots (43_phase_ops.md R297). -/
theorem engineKeeps_writeStatus {s : State} {i : Byte} (ha : s.active = some i) (hp : s.phase = .msgIn)
    (qout : List Byte) (active : Option Byte) :
    EngineKeeps s { s with scb := Memory.write s.scb (scbAddr i 3) goodStatus, qout := qout, active := active } :=
  { engineKeeps_refl s with scb := fun _ hne => Memory.read_write_other s.scb goodStatus (hne i ha hp) }

theorem engineKeeps_progress {s t : State} (hp : progress s = .next t) : EngineKeeps s t := by
  rcases progress_cases hp with ⟨i, rest, _, _, rfl⟩ | ⟨i, ha, hphase, _, rfl⟩ | ⟨i, _, _, rfl⟩
  · apply engineKeeps_phaseRequest
    exact { engineKeeps_refl s with }
  · exact engineKeeps_raiseCause (engineKeeps_phaseRequest (engineKeeps_writeStatus ha hphase _ _) _) (.inl rfl)
  · exact engineKeeps_phaseRequest (engineKeeps_refl s) _

/-- PAUSE set once or twice is the same (40_sequencer.md R174). -/
theorem engineKeeps_setPause {s u : State} (h : EngineKeeps s u) : EngineKeeps s (setPause u) :=
  { h with
    regs := by rw [setPause_regs, h.regs]
    hcntrl := by
      rw [setPause_regs]
      rcases h.hcntrl with hsame | hset
      · exact .inr (by rw [hsame])
      · exact .inr (by rw [hset, BitVec.or_assoc, BitVec.or_self]) }

theorem engineKeeps_singleStepPause {s u : State} (h : EngineKeeps s u) : EngineKeeps s (singleStepPause u) := by
  unfold singleStepPause
  split
  · exact h
  · split
    · exact engineKeeps_setPause h
    · exact h

/-- A retirement keeps what the engine keeps, from whatever `pc`, stack and depth the instruction has set. -/
theorem engineKeeps_retire {s t : State} {pc : SeqAddr} {stack : Vector SeqAddr 4} {sp : Fin 5}
    (hr : retire { s with pc := pc, stack := stack, sp := sp } = .next t) : EngineKeeps s t := by
  obtain ⟨u, hu, rfl⟩ := retire_cases hr
  have hprogress : EngineKeeps s u := { engineKeeps_progress hu with }
  exact engineKeeps_singleStepPause hprogress

/-- Settles O24: an engine step retires, faults or halts, and each keeps the host's state. -/
theorem engineStepKeepsHostState : Obligations.EngineStepKeepsHostState := by
  intro s t hc hs
  rcases engineStep_cases hc hs with ⟨pc, stack, sp, hr⟩ | ⟨f, _, rfl⟩ | ⟨pc, rfl⟩
  · exact engineKeeps_retire hr
  · exact engineKeeps_seqFault (engineKeeps_refl s) f
  · apply engineKeeps_seqHalt
    exact { engineKeeps_refl s with }

end Sys2Proof.Proofs
end

section
/-! The nine sequencer instructions (40_sequencer.md R180 to R188): those that retire, from the `pc`, stack and depth they
set, and the three ways into Halted. -/

namespace Sys2Proof.Proofs

open Sys2Proof Sys2Proof.Machine

/-- While the engine can step, a retirement from any `pc`, stack and depth answers a next state that has them, and keeps
what the engine keeps (40_sequencer.md R179, R189). -/
theorem retire_answers {s : State} (hc : s.canStep = true) (pc : SeqAddr) (stack : Vector SeqAddr 4) (sp : Fin 5) :
    ∃ t, retire { s with pc := pc, stack := stack, sp := sp } = .next t ∧ t.pc = pc ∧ t.stack = stack ∧ t.sp = sp ∧
      EngineKeeps s t := by
  obtain ⟨_, _, _, hwork, hstall⟩ := (canStep_iff s).1 hc
  obtain ⟨t, ht⟩ := retire_isNext (s := { s with pc := pc, stack := stack, sp := sp }) hwork hstall
  obtain ⟨hpc, hstack, hsp⟩ := retire_keeps ht
  exact ⟨t, ht, hpc, hstack, hsp, engineKeeps_retire ht⟩

theorem retiresTo_retireAt {s : State} (hc : s.canStep = true) (target : SeqAddr) :
    RetiresTo s target (retireAt target s) := by
  obtain ⟨t, ht, hpc, hstack, hsp, hkeeps⟩ := retire_answers hc target s.stack s.sp
  exact ⟨t, ht, ht, hpc, hstack, hsp, hkeeps⟩

theorem branch_eq_retireAt {taken : Bool} {p : Prop} [Decidable p] (h : taken = true ↔ p) (target : SeqAddr)
    (s : State) : branch taken target s = retireAt (if p then target else s.pc + 1) s := by
  simp only [branch, h]

/-- A conditional branch retires to its operand or to the next address, as the condition it tests holds or not. -/
theorem retiresTo_branch {s : State} (hc : s.canStep = true) {taken : Bool} {p : Prop} [Decidable p]
    (h : taken = true ↔ p) (target : SeqAddr) :
    RetiresTo s (if p then target else s.pc + 1) (branch taken target s) := by
  rw [branch_eq_retireAt h]
  exact retiresTo_retireAt hc _

/-- Settles O16: two retirements at an address, and four branches with the condition each tests. -/
theorem opaqueAndBranchesRetire : Obligations.OpaqueAndBranchesRetire := by
  intro s w imm addr hc
  exact ⟨retiresTo_retireAt hc (s.pc + 1), retiresTo_retireAt hc addr, retiresTo_branch hc beq_iff_eq addr,
    retiresTo_branch hc bne_iff_ne addr, retiresTo_branch hc beq_iff_eq addr, retiresTo_branch hc bne_iff_ne addr⟩

/-- CALL with room on the stack (40_sequencer.md R184). -/
theorem exec_call_of_room {s : State} (h : s.sp.val < 4) (addr : SeqAddr) :
    exec (.call addr) s = retire { s with
      pc := addr, stack := s.stack.set s.sp.val (s.pc + 1) h, sp := ⟨s.sp.val + 1, by omega⟩ } :=
  dif_pos h

/-- CALL with four return addresses stacked (40_sequencer.md R184). -/
theorem exec_call_of_full {s : State} (h : ¬ s.sp.val < 4) (addr : SeqAddr) :
    exec (.call addr) s = .next (seqFault .stkovf s) :=
  dif_neg h

/-- Settles O17: with room a retirement from the pushed stack, else the fault. -/
theorem callPushesOrOverflows : Obligations.CallPushesOrOverflows := by
  intro s addr
  constructor
  · intro hroom hc
    obtain ⟨t, ht, hpc, hstack, hsp, hkeeps⟩ :=
      retire_answers hc addr (s.stack.set s.sp.val (s.pc + 1) hroom) ⟨s.sp.val + 1, by omega⟩
    exact ⟨t, by rw [exec_call_of_room hroom, ht], hpc, by rw [hsp], hstack, by rw [hstack, hsp, ht], hkeeps⟩
  · intro hfull
    rw [exec_call_of_full (by omega)]
    rfl

/-- RET with an entry on the stack (40_sequencer.md R187). -/
theorem exec_ret_of_entry {s : State} (h : 0 < s.sp.val) :
    exec .ret s = retire { s with pc := s.stack[s.sp.val - 1]'(by omega), sp := ⟨s.sp.val - 1, by omega⟩ } :=
  dif_pos h

/-- RET on an empty stack (40_sequencer.md R187). -/
theorem exec_ret_of_empty {s : State} (h : ¬ 0 < s.sp.val) : exec .ret s = .next (seqFault .stkunf s) :=
  dif_neg h

/-- Settles O18: with an entry a retirement at the popped address, else the fault. -/
theorem retPopsOrUnderflows : Obligations.RetPopsOrUnderflows := by
  intro s
  constructor
  · intro hentry hc
    obtain ⟨t, ht, hpc, hstack, hsp, hkeeps⟩ :=
      retire_answers hc (s.stack[s.sp.val - 1]'(by omega)) s.stack ⟨s.sp.val - 1, by omega⟩
    exact ⟨t, by rw [exec_ret_of_entry hentry, ht], hpc, by rw [hsp], hstack, by rw [hpc, hsp, ht], hkeeps⟩
  · intro hempty
    rw [exec_ret_of_empty (by omega)]
    rfl

/-- Settles O19: HALT is the entry to Halted at the next address, and that entry raises BRKADRINT. -/
theorem haltEntersHalted : Obligations.HaltEntersHalted := by
  intro s
  calc exec .halt s
    _ = .next (seqHalt { s with pc := s.pc + 1 }) := rfl
    _ = .next (updateLine { s with
          pc := s.pc + 1, halted := true, pending := { s.pending with brkadrint := true } }) := rfl

end Sys2Proof.Proofs
end

section
/-! The bound on a run (40_sequencer.md R175): the measure is at most seven units per queued SCB and seven for the one in
flight. -/

namespace Sys2Proof.Proofs

open Sys2Proof Sys2Proof.Machine

theorem remaining_le (p : Phase) : p.remaining ≤ 7 := by cases p <;> decide

theorem measure_le (s : State) : s.measure ≤ 7 * s.qin.length + 7 := by
  have hphase := remaining_le s.phase
  unfold State.measure
  split <;> omega

/-- Settles O52: every engine step lowers the measure or stops the engine (`measure_engineStep`), so fuel above the
measure ends the run (`run_settles`), and the invariants bound the queue by QDEPTH. -/
theorem everyRunEndsWithinMeasure : Obligations.EveryRunEndsWithinMeasure := by
  refine ⟨fun s t => measure_engineStep, fun s => ?_, fun s hinv => ?_⟩
  · obtain ⟨_, t, hrun, _, _, hend⟩ := run_settles s
    exact ⟨t, hrun, hend⟩
  · have hmeasure := measure_le s
    have hqueue := hinv.qin
    omega

end Sys2Proof.Proofs
end

section
/-! The RAM loader (41_register_ops.md R226, 20_memory.md R106): one RAM lane read after a write of another, the four writes
that make a word, and which inputs reach the RAM at all. -/

namespace Sys2Proof.Proofs

open Sys2Proof Sys2Proof.Machine

/-! ### One lane -/

/-- SEQRAM.W while loading (41_register_ops.md R226). -/
theorem exec_seqramW_of_loading {s : State} (h : s.loadram = true) (v : Byte) :
    exec (.seqramW v) s = .next (loadByte v s) := by
  have hexec : exec (.seqramW v) s = execSeqramW v s := rfl
  rw [hexec, execSeqramW, if_pos h]

/-- SEQRAM.W while not loading (41_register_ops.md R226). -/
theorem exec_seqramW_of_not_loading {s : State} (h : s.loadram = false) (v : Byte) :
    exec (.seqramW v) s = .next s := by
  have hexec : exec (.seqramW v) s = execSeqramW v s := rfl
  rw [hexec, execSeqramW, if_neg (by simp [h])]

theorem read_ramWriteLane (m : Memory) (a b : SeqAddr) (k l : BitVec 2) (v : Byte) :
    Memory.read (ramWriteLane m a k v) (laneAddr b l) =
      if b = a ∧ l = k then v else Memory.read m (laneAddr b l) := by
  have hsame : laneAddr b l = laneAddr a k ↔ b = a ∧ l = k :=
    ⟨laneAddr_inj, fun ⟨hword, hlane⟩ => by rw [hword, hlane]⟩
  simp only [ramWriteLane, Memory.read_write, hsame]

/-- The load pointer's lane wraps after lane 3, as its two bits do (10_state.md R26). -/
theorem nextLane_eq (k : BitVec 2) : k + 1 = if k = 3#2 then 0#2 else k + 1 := by
  split
  · next hlast => rw [hlast]; rfl
  · rfl

/-- Settles O38: `loadByte` writes one address of the store, that of the lane at the load pointer. -/
theorem seqramWriteFillsOneLane : Obligations.SeqramWriteFillsOneLane := by
  intro s v
  refine ⟨rfl, fun h => exec_seqramW_of_not_loading h v, fun h =>
    ⟨loadByte v s, exec_seqramW_of_loading h v, ?_, fun a => Memory.read_write s.ram _ a v⟩⟩
  rw [← nextLane_eq]
  rfl

/-! ### One word -/

/-- The four lanes of word `a`, least significant byte first (20_memory.md R106 a). -/
def ramWriteBytes (m : Memory) (a : SeqAddr) (b0 b1 b2 b3 : Byte) : Memory :=
  ramWriteLane (ramWriteLane (ramWriteLane (ramWriteLane m a 0 b0) a 1 b1) a 2 b2) a 3 b3

theorem ramWord_ramWriteBytes_same (m : Memory) (a : SeqAddr) (b0 b1 b2 b3 : Byte) :
    ramWord (ramWriteBytes m a b0 b1 b2 b3) a = b3 ++ b2 ++ b1 ++ b0 := by
  simp [ramWord, ramWriteBytes, read_ramWriteLane, wordOfBytes]

theorem ramWord_ramWriteBytes_other (m : Memory) {a b : SeqAddr} (h : b ≠ a) (b0 b1 b2 b3 : Byte) :
    ramWord (ramWriteBytes m a b0 b1 b2 b3) b = ramWord m b := by
  simp [ramWord, ramWriteBytes, read_ramWriteLane, h]

/-- Four bytes loaded from lane 0 on fill the word at the load address, and the pointer ends at lane 0 of the next
word. -/
theorem loadByte_four {s : State} (h : s.loadLane = 0#2) (b0 b1 b2 b3 : Byte) :
    loadByte b3 (loadByte b2 (loadByte b1 (loadByte b0 s))) =
      { s with ram := ramWriteBytes s.ram s.loadAddr b0 b1 b2 b3, loadAddr := s.loadAddr + 1 } := by
  simp [loadByte, ramWriteBytes, h]

/-- Settles O39: while loading each write is a `loadByte`, and four of them from lane 0 write the four lanes. -/
theorem fourSeqramWritesLoadWord : Obligations.FourSeqramWritesLoadWord := by
  intro s b0 b1 b2 b3 hload hlane
  refine ⟨_, _, _, _, exec_seqramW_of_loading hload b0, exec_seqramW_of_loading (s := loadByte b0 s) hload b1,
    exec_seqramW_of_loading (s := loadByte b1 (loadByte b0 s)) hload b2,
    exec_seqramW_of_loading (s := loadByte b2 (loadByte b1 (loadByte b0 s))) hload b3, ?_⟩
  rw [loadByte_four hlane]
  exact ⟨rfl, ramWord_ramWriteBytes_same .., fun a hother => ramWord_ramWriteBytes_other _ hother ..⟩

/-! ### What reaches the RAM -/

@[simp] theorem storeSeqctl_ram (v : Byte) (s : State) : (storeSeqctl v s).ram = s.ram := rfl
@[simp] theorem startLoad_ram (edge : Bool) (s : State) : (startLoad edge s).ram = s.ram := by
  unfold startLoad; split <;> rfl
@[simp] theorem dequeueOutput_ram (s : State) : (dequeueOutput s).2.ram = s.ram := by
  unfold dequeueOutput; split <;> rfl

/-- Of the host operations only CHIPRST and SEQRAM.W while loading reach the RAM (41_register_ops.md R244). -/
theorem ram_hostEffect {i : Instr} {s t : State} (he : HostEffect s i t) :
    t.ram = s.ram ∨ (∃ v, i = .hcntrlW v ∧ v[0] = true) ∨ (∃ v, i = .seqramW v ∧ s.loadram = true) := by
  cases he with
  | resets v hv => exact .inr (.inl ⟨v, rfl, hv⟩)
  | loads v hload => exact .inr (.inr ⟨v, rfl, hload⟩)
  | writesPhase v =>
    rcases phaseWrite_cases v s with hsame | ⟨p, hrequest⟩
    · rw [hsame]; exact .inl rfl
    · rw [hrequest]; exact .inl (phaseRequest_ram p s)
  | setsSeqctl v =>
    left
    rw [startLoad_ram, storeSeqctl_ram]
    split <;> simp
  | _ => exact .inl (by simp)

theorem resets_of_hcntrlW {a : Access} {v : Byte} (h : decodeAccess a = .instr (.hcntrlW v)) :
    (Input.access a).resets = v[0] := by
  rw [Input.resets, h]

theorem writesSeqram_of_seqramW {a : Access} {v : Byte} (h : decodeAccess a = .instr (.seqramW v)) :
    (Input.access a).writesSeqram = true := by
  rw [Input.writesSeqram, h]

theorem ram_acceptInput {i : Input} {s t : State} (ha : acceptInput i s = .next t) :
    t.ram = s.ram ∨ i.resets = true ∨ (i.writesSeqram = true ∧ s.loadram = true) := by
  rcases acceptInput_cases ha with ⟨a, j, rfl, hd, hj, he⟩ | ⟨a, d, _, _, rfl⟩ | ⟨rfl, _⟩ | ⟨_, rfl⟩ | ⟨_, rfl⟩
  · rcases ram_hostEffect (hostEffect_of_exec hj he) with hsame | ⟨v, rfl, hv⟩ | ⟨v, rfl, hload⟩
    · exact .inl hsame
    · exact .inr (.inl ((resets_of_hcntrlW hd).trans hv))
    · exact .inr (.inr ⟨writesSeqram_of_seqramW hd, hload⟩)
  · exact .inl rfl
  · exact .inr (.inl rfl)
  · exact .inl (raiseCause_ram _ s)
  · exact .inl (raiseCause_ram _ s)

/-- Settles O57: an engine step keeps the RAM (`engineStepKeepsHostState`), so a step that changes it accepted an input,
and of the inputs only those two reach the RAM. -/
theorem ramChangesOnlyByLoadOrReset : Obligations.RamChangesOnlyByLoadOrReset := by
  intro s t hs hram
  have hengine : s.canStep = true → False := fun hc => hram (engineStepKeepsHostState s t hc hs).ram
  rcases step_cases hs with ⟨hc, _⟩ | ⟨hc, _⟩ | ⟨hc, _⟩ | ⟨_, _, rfl⟩ | ⟨hc, i, rest, hin, ha⟩
  · exact (hengine hc).elim
  · exact (hengine hc).elim
  · exact (hengine hc).elim
  · exact absurd rfl hram
  · exact ⟨hc, i, rest, hin, (ram_acceptInput ha).resolve_left hram⟩

end Sys2Proof.Proofs
end

section
/-! The gates and windows of the sequencer's registers (41_register_ops.md R223 to R230, 10_state.md R41, R42): SEQCTL,
SEQADDR0/1 in their two banks, and the data registers of the context. -/

namespace Sys2Proof.Proofs

open Sys2Proof Sys2Proof.Machine

/-! ### The gate -/

/-- The host may write the context iff the engine is paused or Halted (10_state.md R42). -/
theorem ctxWritable_iff (s : State) : s.ctxWritable = true ↔ s.regs.hcntrl[2] = true ∨ s.halted = true := by
  simp [State.ctxWritable, State.pause]

theorem ctxWritable_eq_false {s : State} (hpause : s.regs.hcntrl[2] = false) (hhalted : s.halted = false) :
    s.ctxWritable = false := by
  simp [State.ctxWritable, State.pause, hpause, hhalted]

/-! ### SEQCTL -/

/-- The SEQRESET bit of a SEQCTL write: the context is cleared iff the bit is set and the gate is open
(41_register_ops.md R225). -/
theorem seqReset_if_eq (b : Bool) (s : State) :
    (if b then seqReset s else s) = { s with
      pc := if b = true ∧ (s.regs.hcntrl[2] = true ∨ s.halted = true) then 0 else s.pc
      sp := if b = true ∧ (s.regs.hcntrl[2] = true ∨ s.halted = true) then 0 else s.sp } := by
  simp only [← ctxWritable_iff]
  cases b
  · simp
  · cases hgate : s.ctxWritable <;> simp [seqReset, hgate]

/-- The load pointer goes to 0 on the edge, else stays (41_register_ops.md R224). -/
theorem startLoad_eq {edge : Bool} {p : Prop} [Decidable p] (h : edge = true ↔ p) (s : State) :
    startLoad edge s = { s with
      loadAddr := if p then 0 else s.loadAddr
      loadLane := if p then 0 else s.loadLane } := by
  simp only [startLoad, h]
  split <;> rfl

/-- Settles O37: the three parts of a SEQCTL write in order, each as the fields it sets. -/
theorem seqctlReadsAndControls : Obligations.SeqctlReadsAndControls := by
  intro s v
  have hedge : (!s.loadram && v[0]) = true ↔ s.regs.seqctl[0] = false ∧ v[0] = true := by simp [State.loadram]
  refine ⟨rfl, rfl, rfl, ?_⟩
  calc exec (.seqctlW v) s
    _ = .next (startLoad (!s.loadram && v[0]) (storeSeqctl v (if v[1] then seqReset s else s))) := rfl
    _ = _ := by
      rw [startLoad_eq hedge, seqReset_if_eq]
      rfl

/-! ### SEQADDR0 and SEQADDR1 -/

theorem addrLow_eq_extractLsb' (a : SeqAddr) : addrLow a = a.extractLsb' 0 8 :=
  BitVec.setWidth_eq_extractLsb' (by decide)

theorem addrHigh_eq_ite (a : SeqAddr) : addrHigh a = if a[8] then 0x01#8 else 0x00#8 := by
  unfold addrHigh
  cases a[8] <;> rfl

theorem writeSeqAddr_of_loading {s : State} (h : s.loadram = true) (f : SeqAddr → SeqAddr) :
    writeSeqAddr f s = { s with loadAddr := f s.loadAddr, loadLane := 0 } := by
  rw [writeSeqAddr, if_pos h]

theorem writeSeqAddr_of_gate {s : State} (h : s.loadram = false) (hgate : s.ctxWritable = true)
    (f : SeqAddr → SeqAddr) : writeSeqAddr f s = { s with pc := f s.pc } := by
  rw [writeSeqAddr, if_neg (by simp [h]), if_pos hgate]

theorem writeSeqAddr_of_closed {s : State} (h : s.loadram = false) (hgate : s.ctxWritable = false)
    (f : SeqAddr → SeqAddr) : writeSeqAddr f s = s := by
  rw [writeSeqAddr, if_neg (by simp [h]), if_neg (by simp [hgate])]

theorem exec_seqaddr0W (v : Byte) (s : State) :
    exec (.seqaddr0W v) s = .next (writeSeqAddr (fun a => setAddrLow a v) s) := rfl

theorem exec_seqaddr1W (v : Byte) (s : State) :
    exec (.seqaddr1W v) s = .next (writeSeqAddr (fun a => setAddrHigh a v) s) := rfl

theorem setAddrHigh_eq (a : SeqAddr) (v : Byte) : setAddrHigh a v = BitVec.ofBool v[0] ++ a.extractLsb' 0 8 := by
  rw [setAddrHigh, joinAddr, addrLow_eq_extractLsb']

/-- Settles O40: both registers are windows on the one address of the bank, of which each holds a half. -/
theorem seqaddrBankedWindow : Obligations.SeqaddrBankedWindow := by
  intro s v
  refine ⟨rfl, rfl, rfl, rfl, ⟨s.seqAddr, rfl, ?_, ?_⟩, fun hload => ?_, fun hload hgate => ?_,
    fun hload hpause hhalted => ?_⟩
  · rw [← addrLow_eq_extractLsb']; rfl
  · rw [← addrHigh_eq_ite]; rfl
  · rw [exec_seqaddr0W, exec_seqaddr1W, writeSeqAddr_of_loading hload, writeSeqAddr_of_loading hload, setAddrHigh_eq]
    exact ⟨rfl, rfl⟩
  · have hopen := (ctxWritable_iff s).2 hgate
    rw [exec_seqaddr0W, exec_seqaddr1W, writeSeqAddr_of_gate hload hopen, writeSeqAddr_of_gate hload hopen,
      setAddrHigh_eq]
    exact ⟨rfl, rfl⟩
  · have hclosed := ctxWritable_eq_false hpause hhalted
    rw [exec_seqaddr0W, exec_seqaddr1W, writeSeqAddr_of_closed hload hclosed, writeSeqAddr_of_closed hload hclosed]
    exact ⟨rfl, rfl⟩

/-! ### ACCUM, SINDEX and DINDEX -/

/-- The writes of the three data registers with the gate open (41_register_ops.md R230). -/
theorem exec_contextW_of_gate {s : State} (h : s.ctxWritable = true) (v : Byte) :
    exec (.accumW v) s = .next { s with accum := v } ∧ exec (.sindexW v) s = .next { s with sindex := v } ∧
      exec (.dindexW v) s = .next { s with dindex := v } :=
  ⟨congrArg Host.Outcome.next (if_pos h), congrArg Host.Outcome.next (if_pos h),
    congrArg Host.Outcome.next (if_pos h)⟩

/-- The writes of the three data registers with the gate closed (41_register_ops.md R230). -/
theorem exec_contextW_of_closed {s : State} (h : s.ctxWritable = false) (v : Byte) :
    exec (.accumW v) s = .next s ∧ exec (.sindexW v) s = .next s ∧ exec (.dindexW v) s = .next s :=
  have hclosed : ¬ s.ctxWritable = true := by simp [h]
  ⟨congrArg Host.Outcome.next (if_neg hclosed), congrArg Host.Outcome.next (if_neg hclosed),
    congrArg Host.Outcome.next (if_neg hclosed)⟩

/-- Settles O41: the writes by the two positions of the gate. -/
theorem contextRegistersGated : Obligations.ContextRegistersGated := by
  intro s v
  exact ⟨rfl, rfl, rfl, rfl, rfl, rfl, rfl, rfl, rfl,
    fun hgate => exec_contextW_of_gate ((ctxWritable_iff s).2 hgate) v,
    fun hpause hhalted => exec_contextW_of_closed (ctxWritable_eq_false hpause hhalted) v⟩

end Sys2Proof.Proofs
end

section
/-! The status registers (41_register_ops.md R214 to R217, R232, R238, R239), by the bits of the bytes they show, and the
registers whose write updates the interrupt line (R218, R235, R240). -/

namespace Sys2Proof.Proofs

open Sys2Proof Sys2Proof.Machine

theorem byteOfBits_eq_concat (b7 b6 b5 b4 b3 b2 b1 b0 : Bool) :
    byteOfBits b7 b6 b5 b4 b3 b2 b1 b0 =
      ((((((((BitVec.ofBool b7).concat b6).concat b5).concat b4).concat b3).concat b2).concat b1).concat b0) := rfl

/-- The eight bits of a byte that is given by them. -/
theorem bits_of_eq_byteOfBits {b : Byte} {b7 b6 b5 b4 b3 b2 b1 b0 : Bool}
    (h : b = byteOfBits b7 b6 b5 b4 b3 b2 b1 b0) :
    b[0] = b0 ∧ b[1] = b1 ∧ b[2] = b2 ∧ b[3] = b3 ∧ b[4] = b4 ∧ b[5] = b5 ∧ b[6] = b6 ∧ b[7] = b7 := by
  rw [h, byteOfBits_eq_concat]
  simp [BitVec.getElem_concat]

/-- Settles O32: the bits of SSTAT0 in order, and the clear. -/
theorem sstat0ReadsAndClears : Obligations.Sstat0ReadsAndClears :=
  ⟨rfl, fun s => ⟨s.sstat0.toByte, rfl, bits_of_eq_byteOfBits rfl⟩⟩

theorem sstat1_eq_concat (s : State) :
    s.sstat1 = ((((s.mode.code.concat s.active.isSome).concat s.qout.isEmpty).concat s.qoutFull).concat
      s.qin.isEmpty).concat s.qinFull := rfl

/-- The five low bits of SSTAT1 (10_state.md R38). -/
theorem sstat1_lowBits (s : State) :
    s.sstat1[0] = s.qinFull ∧ s.sstat1[1] = s.qin.isEmpty ∧ s.sstat1[2] = s.qoutFull ∧
      s.sstat1[3] = s.qout.isEmpty ∧ s.sstat1[4] = s.active.isSome := by
  rw [sstat1_eq_concat]
  simp [BitVec.getElem_concat]

/-- SEQMODE, bits 7:5 of SSTAT1 (10_state.md R38). -/
theorem sstat1_mode (s : State) : s.sstat1.extractLsb' 5 3 = s.mode.code := by
  rw [sstat1_eq_concat]
  ext i hi
  simp [BitVec.getLsbD_concat, BitVec.getLsbD_eq_getElem hi]

/-- The mode code in register bits, in the order of the cases of 10_state.md R52. -/
theorem mode_code (s : State) :
    s.mode.code =
      if s.halted then 4#3
      else if s.regs.seqctl[0] then 1#3
      else if s.regs.hcntrl[2] = true ∧ s.active ≠ none then 3#3
      else if s.regs.hcntrl[2] = false ∧ (s.active ≠ none ∨ 0 < s.qin.length) then 2#3
      else 0#3 := by
  have hpaused : (s.pause && s.active.isSome) = true ↔ s.regs.hcntrl[2] = true ∧ s.active ≠ none := by
    simp [State.pause, Option.isSome_iff_ne_none]
  have hrunning : (!s.pause && s.hasWork) = true ↔
      s.regs.hcntrl[2] = false ∧ (s.active ≠ none ∨ 0 < s.qin.length) := by
    simp [State.pause, hasWork_iff, List.length_pos_iff]
  simp only [State.mode, State.loadram, hpaused, hrunning]
  split_ifs <;> rfl

/-- Settles O33: the bits of SSTAT1, each as what it says of the state. -/
theorem sstat1ShowsLiveStatus : Obligations.Sstat1ShowsLiveStatus := by
  refine ⟨rfl, fun s => ⟨s.sstat1, rfl, ?_⟩⟩
  obtain ⟨hqinFull, hqinEmpty, hqoutFull, hqoutEmpty, hactive⟩ := sstat1_lowBits s
  rw [hqinFull, hqinEmpty, hqoutFull, hqoutEmpty, hactive, sstat1_mode, mode_code]
  refine ⟨?_, ?_, ?_, ?_, Option.isSome_iff_ne_none, rfl⟩ <;> simp [State.qinFull, State.qoutFull]

/-- Settles O35: each read answers one byte, whose bits are the parts of the state it shows. -/
theorem statusReadsShowState : Obligations.StatusReadsShowState := by
  refine ⟨rfl, rfl, rfl, rfl, fun s => ⟨?_, ?_, ?_, ?_⟩⟩
  · rfl
  · refine ⟨BitVec.ofNat 8 s.sp.val, rfl, ?_⟩
    have := s.sp.isLt
    simp; omega
  · exact ⟨s.pending.toByte, rfl, bits_of_eq_byteOfBits rfl⟩
  · exact ⟨s.error.toByte, rfl, bits_of_eq_byteOfBits rfl⟩

/-! ### SIMODE0, CLRINT and HCNTRL -/

/-- Settles O34: the write is the stored byte and one line update. -/
theorem simode0ReadsAndMasks : Obligations.Simode0ReadsAndMasks :=
  fun _ _ => ⟨rfl, rfl, rfl, rfl⟩

/-- A cause is cleared by its bit and kept otherwise (41_register_ops.md R240). -/
theorem clearBits_eq (p : PendingCauses) (v : Byte) :
    p.clearBits v =
      { cmdcmplt := if v[1] then false else p.cmdcmplt
        scsiint := if v[2] then false else p.scsiint
        brkadrint := if v[3] then false else p.brkadrint
        parerrint := if v[4] then false else p.parerrint } := by
  have hbit (pending selected : Bool) : (pending && !selected) = if selected then false else pending := by
    cases selected <;> simp
  simp only [PendingCauses.clearBits, Cause.bitOf, hbit]

/-- Settles O36: the causes left are those of `clearBits`. -/
theorem clrintClearsSelectedCauses : Obligations.ClrintClearsSelectedCauses := by
  intro s v
  refine ⟨rfl, ?_⟩
  rw [← clearBits_eq]
  rfl

/-- HCNTRL.W without CHIPRST (41_register_ops.md R235). -/
theorem exec_hcntrlW_of_not_chiprst {v : Byte} (hv : v[0] = false) (s : State) :
    exec (.hcntrlW v) s = .next (updateLine { s with regs := { s.regs with hcntrl := v } }) := by
  have hexec : exec (.hcntrlW v) s = execHcntrlW v s := rfl
  rw [hexec, execHcntrlW, if_neg (by simp [hv])]

/-- Settles O43: without CHIPRST the write is the stored byte and one line update. -/
theorem hcntrlReadsAndStores : Obligations.HcntrlReadsAndStores :=
  fun s _ => ⟨rfl, rfl, rfl, fun hv => exec_hcntrlW_of_not_chiprst hv s⟩

end Sys2Proof.Proofs
end

section
/-! The registers that are storage (41_register_ops.md R211 to R213, R231), the unknown offsets, and what a write read back
at once returns (R243). -/

namespace Sys2Proof.Proofs

open Sys2Proof Sys2Proof.Machine

/-! ### The plain registers -/

theorem exec_readInstr (r : PlainReg) (s : State) : exec r.readInstr s = .next (answerByte (s.regs.get r) s) := by
  cases r <;> rfl

theorem exec_writeInstr (r : PlainReg) (v : Byte) (s : State) :
    exec (r.writeInstr v) s = .next { s with regs := s.regs.set r v } := by
  cases r <;> rfl

theorem encode_readInstr (r : PlainReg) : encode r.readInstr = .access (readAccess r.offset) := by
  cases r <;> rfl

theorem encode_writeInstr (r : PlainReg) (v : Byte) :
    encode (r.writeInstr v) = .access (writeAccess r.offset v) := by
  cases r <;> rfl

theorem storedRegs_get_set (g : StoredRegs) (r q : PlainReg) (v : Byte) :
    (g.set r v).get q = if q = r then v else g.get q := by
  cases r <;> cases q <;> rfl

/-- Settles O27: the two operations of a plain register, and that its byte is its own. -/
theorem plainRegistersReadAndStore : Obligations.PlainRegistersReadAndStore := by
  intro s r v
  exact ⟨encode_readInstr r, encode_writeInstr r v, exec_readInstr r s, exec_writeInstr r v s,
    (storedRegs_get_set s.regs r r v).trans (if_pos rfl),
    fun q hq => (storedRegs_get_set s.regs r q v).trans (if_neg hq),
    storedRegs_set_simode0 .., storedRegs_set_seqctl .., storedRegs_set_brkaddr1 .., storedRegs_set_hcntrl ..⟩

/-- Settles O42: BRKADDR1 is storage of two bits. -/
theorem brkaddr1StoresTwoBits : Obligations.Brkaddr1StoresTwoBits :=
  fun _ _ => ⟨rfl, rfl, rfl, rfl⟩

/-! ### Accesses in the wrong direction, and at no register -/

theorem ignoreWrite_eq (v : Byte) (s : State) : ignoreWrite v s = .next s := rfl

theorem readWriteOnly_eq (s : State) : readWriteOnly s = .next { s with rdata := [0x00#8] } := rfl

/-- Settles O28: seven ignored writes and two reads of write-only registers. -/
theorem wrongDirectionAccesses : Obligations.WrongDirectionAccesses := by
  intro s v
  exact ⟨rfl, rfl, rfl, rfl, rfl, rfl, rfl, rfl, rfl,
    ignoreWrite_eq v s, ignoreWrite_eq v s, ignoreWrite_eq v s, ignoreWrite_eq v s, ignoreWrite_eq v s,
    ignoreWrite_eq v s, ignoreWrite_eq v s, readWriteOnly_eq s, readWriteOnly_eq s⟩

theorem unknownOffset_lt {o : Nat} (h : UnknownOffset o) : o < 0x0C0 := by
  unfold UnknownOffset at h
  omega

/-- The UNKNOWN operations (41_register_ops.md R212). -/
theorem acceptAccess_of_unknown {a : Access} (hsize : a.size = 1) (h : UnknownOffset a.offset) (s : State) :
    acceptAccess a s = .next { s with rdata := match a.dir with | .read => [0xFF#8] | .write => s.rdata } := by
  rw [acceptAccess, (unknownOffsetsExactly a hsize (unknownOffset_lt h)).1 h]
  cases a.dir <;> rfl

/-- Settles O13: such an access decodes to an UNKNOWN operation (`unknownOffsetsExactly`). -/
theorem stepUnknownOffsetReadsOnes : Obligations.StepUnknownOffsetReadsOnes := by
  intro s a rest hc hin hsize hoffset
  rw [step_of_access hc hin]
  exact acceptAccess_of_unknown hsize hoffset _

/-! ### A write read back at once -/

/-- The write `w` executed in `s`, then the read `r`, returns `b` (41_register_ops.md R243). -/
def ReadsBack (w r : Instr) (s : State) (b : Byte) : Prop :=
  ∃ t u, exec w s = .next t ∧ exec r t = .next u ∧ u.rdata = [b]

/-- A write that leaves `t`, in which the read answers `b`, reads back as `b`. -/
theorem readsBack_of_answer {w r : Instr} {s t : State} {b : Byte} (hw : exec w s = .next t)
    (hr : exec r t = .next (answerByte b t)) : ReadsBack w r s b :=
  ⟨t, answerByte b t, hw, hr, answerByte_rdata b t⟩

theorem readsBack_plain (r : PlainReg) (v : Byte) (s : State) : ReadsBack (r.writeInstr v) r.readInstr s v := by
  refine readsBack_of_answer (exec_writeInstr r v s) ?_
  rw [exec_readInstr, storedRegs_get_set, if_pos rfl]

theorem readsBack_simode0 (v : Byte) (s : State) : ReadsBack (.simode0W v) .simode0R s v := by
  refine readsBack_of_answer (t := updateLine { s with regs := { s.regs with simode0 := v } }) rfl ?_
  have hread (t : State) : exec .simode0R t = .next (answerByte t.regs.simode0 t) := rfl
  rw [hread, updateLine_regs]

@[simp] theorem startLoad_regs (edge : Bool) (s : State) : (startLoad edge s).regs = s.regs := by
  unfold startLoad; split <;> rfl

theorem readsBack_seqctl (v : Byte) (s : State) : ReadsBack (.seqctlW v) .seqctlR s (v &&& 0xFD#8) := by
  refine readsBack_of_answer rfl ?_
  have hread (t : State) : exec .seqctlR t = .next (answerByte t.regs.seqctl t) := rfl
  rw [hread, startLoad_regs]
  rfl

/-- A byte whose bit 0 is clear loses nothing to the mask of the other seven bits. -/
theorem and_FE_of_bit0 {v : Byte} (hv : v[0] = false) : v &&& 0xFE#8 = v := by
  ext i hi
  interval_cases i <;> simp [hv]

theorem readsBack_hcntrl {v : Byte} (hv : v[0] = false) (s : State) :
    ReadsBack (.hcntrlW v) .hcntrlR s (v &&& 0xFE#8) := by
  refine readsBack_of_answer (exec_hcntrlW_of_not_chiprst hv s) ?_
  have hread (t : State) : exec .hcntrlR t = .next (answerByte t.regs.hcntrl t) := rfl
  rw [hread, updateLine_regs, and_FE_of_bit0 hv]

theorem readsBack_scbwin (k : BitVec 5) (v : Byte) (s : State) : ReadsBack (.scbwinW k v) (.scbwinR k) s v := by
  refine readsBack_of_answer (t := { s with scb := Memory.write s.scb (scbAddr s.regs.scbptr k) v }) rfl ?_
  have hread (t : State) : exec (.scbwinR k) t = .next (answerByte (scbByte t.scb t.regs.scbptr k) t) := rfl
  rw [hread, scbByte, Memory.read_write_same]

theorem seqAddr_of_loading {s : State} (h : s.loadram = true) : s.seqAddr = s.loadAddr := if_pos h

theorem seqAddr_of_not_loading {s : State} (h : s.loadram = false) : s.seqAddr = s.pc := if_neg (by simp [h])

/-- With a gate open, the address behind the two registers is the one just written (41_register_ops.md R229). -/
theorem seqAddr_writeSeqAddr {s : State} (h : s.loadram = true ∨ s.ctxWritable = true) (f : SeqAddr → SeqAddr) :
    (writeSeqAddr f s).seqAddr = f s.seqAddr := by
  cases hload : s.loadram with
  | true =>
    rw [writeSeqAddr_of_loading hload, seqAddr_of_loading hload]
    exact seqAddr_of_loading hload
  | false =>
    have hgate : s.ctxWritable = true := h.resolve_left (by simp [hload])
    rw [writeSeqAddr_of_gate hload hgate, seqAddr_of_not_loading hload]
    exact seqAddr_of_not_loading hload

theorem addrLow_setAddrLow (a : SeqAddr) (v : Byte) : addrLow (setAddrLow a v) = v :=
  BitVec.setWidth_append_eq_right ..

theorem joinAddr_bit8 (hi : Bool) (lo : Byte) : (joinAddr hi lo)[8] = hi :=
  (BitVec.getElem_append (x := BitVec.ofBool hi) (y := lo) (i := 8) (by decide)).trans (by simp)

theorem addrHigh_setAddrHigh (a : SeqAddr) (v : Byte) : addrHigh (setAddrHigh a v) = v &&& 0x01#8 := by
  rw [addrHigh, setAddrHigh, joinAddr_bit8]
  ext i hi
  interval_cases i <;> simp

theorem readsBack_seqaddr {s : State} (h : s.loadram = true ∨ s.ctxWritable = true) (v : Byte) :
    ReadsBack (.seqaddr0W v) .seqaddr0R s v ∧ ReadsBack (.seqaddr1W v) .seqaddr1R s (v &&& 0x01#8) := by
  have hread0 (t : State) : exec .seqaddr0R t = .next (answerByte (addrLow t.seqAddr) t) := rfl
  have hread1 (t : State) : exec .seqaddr1R t = .next (answerByte (addrHigh t.seqAddr) t) := rfl
  constructor
  · refine readsBack_of_answer (exec_seqaddr0W v s) ?_
    rw [hread0, seqAddr_writeSeqAddr h, addrLow_setAddrLow]
  · refine readsBack_of_answer (exec_seqaddr1W v s) ?_
    rw [hread1, seqAddr_writeSeqAddr h, addrHigh_setAddrHigh]

/-- Settles O49: the registers one by one, the gated ones with their gate open. -/
theorem writeThenReadRoundTrips : Obligations.WriteThenReadRoundTrips := by
  intro s v
  refine ⟨fun r => readsBack_plain r v s, readsBack_simode0 v s, readsBack_seqctl v s,
    fun hv => readsBack_hcntrl hv s, readsBack_of_answer rfl rfl, fun k => readsBack_scbwin k v s,
    fun hgate => ?_, fun hopen => ?_⟩
  · obtain ⟨haccum, hsindex, hdindex⟩ := exec_contextW_of_gate ((ctxWritable_iff s).2 hgate) v
    exact ⟨readsBack_of_answer haccum rfl, readsBack_of_answer hsindex rfl, readsBack_of_answer hdindex rfl⟩
  · exact readsBack_seqaddr (hopen.imp_right (ctxWritable_iff s).2) v

end Sys2Proof.Proofs
end

section
/-! The queue ports and the SCB window (42_queue_ops.md R261 to R265, R270): what one access does, case by case. -/

namespace Sys2Proof.Proofs

open Sys2Proof Sys2Proof.Machine

theorem exec_qinfifoW (v : Byte) (s : State) : exec (.qinfifoW v) s = .next (enqueueInput v s) := rfl

theorem exec_qoutfifoR (s : State) :
    exec .qoutfifoR s = .next (answerByte (dequeueOutput s).1 (dequeueOutput s).2) := rfl

theorem enqueueInput_of_room {s : State} (h : s.qin.length ≠ s.cfg.qdepth) (v : Byte) :
    enqueueInput v s = { s with qin := s.qin ++ [v] } :=
  if_neg (by simpa [State.qinFull] using h)

theorem enqueueInput_of_full {s : State} (h : s.qin.length = s.cfg.qdepth) (v : Byte) :
    enqueueInput v s = { s with sstat0 := { s.sstat0 with qinrej := true } } :=
  if_pos (by simpa [State.qinFull] using h)

theorem dequeueOutput_of_cons {s : State} {v : Byte} {rest : List Byte} (h : s.qout = v :: rest) :
    dequeueOutput s = (v, { s with qout := rest }) := by
  rw [dequeueOutput, h]

theorem dequeueOutput_of_nil {s : State} (h : s.qout = []) :
    dequeueOutput s = (0xFF#8, { s with sstat0 := { s.sstat0 with qoutunf := true } }) := by
  rw [dequeueOutput, h]

/-- Settles O46: the two cases of the enqueue and the two of the dequeue. -/
theorem queuePortsEnqueueAndDequeue : Obligations.QueuePortsEnqueueAndDequeue := by
  intro s v
  refine ⟨rfl, rfl, fun hroom => ?_, fun hfull => ?_, fun i rest hcons => ?_, fun hempty => ?_⟩
  · rw [exec_qinfifoW, enqueueInput_of_room hroom]
  · rw [exec_qinfifoW, enqueueInput_of_full hfull]
  · rw [exec_qoutfifoR, dequeueOutput_of_cons hcons]; rfl
  · rw [exec_qoutfifoR, dequeueOutput_of_nil hempty]; rfl

/-- A length within the capacity of a FIFO fits in a byte (00_scope.md R9: `QDEPTH` ≤ 255). -/
theorem toNat_ofNat_of_le_qdepth {c : Config} (hc : c.wf = true) {n : Nat} (hn : n ≤ c.qdepth) :
    (BitVec.ofNat 8 n).toNat = n := by
  have hdepth : c.qdepth ≤ 255 := by
    simp only [Config.wf, Bool.and_eq_true, decide_eq_true_eq] at hc
    exact hc.2
  exact Nat.mod_eq_of_lt (by omega)

/-- Settles O47: each read answers the length as a byte, which loses nothing of a length within the capacity. -/
theorem countReadsAreExact : Obligations.CountReadsAreExact := by
  refine ⟨rfl, rfl, fun s hcfg hqin hqout => ⟨?_, ?_⟩⟩
  · exact ⟨BitVec.ofNat 8 s.qin.length, rfl, toNat_ofNat_of_le_qdepth hcfg hqin⟩
  · exact ⟨BitVec.ofNat 8 s.qout.length, rfl, toNat_ofNat_of_le_qdepth hcfg hqout⟩

/-- Settles O48: the write is one store write, and another byte of a slot has another address (`scbAddr_inj`). -/
theorem scbWindowReadsAndWritesSlot : Obligations.ScbWindowReadsAndWritesSlot := by
  intro s k v
  refine ⟨rfl, rfl, rfl, { s with scb := Memory.write s.scb (scbAddr s.regs.scbptr k) v }, rfl, rfl, ?_, ?_, ?_⟩
  · exact Memory.read_write_same _ _ _
  · intro i j hother
    exact Memory.read_write_other _ _ fun hsame => hother (scbAddr_inj hsame)
  · intro a ha
    exact Memory.read_write_other _ _ ha

end Sys2Proof.Proofs
end

section
/-! The order of the SCBs (42_queue_ops.md R269): what the shared operations, an engine step and an accepted input do to
the sequence of completed, in-flight and queued SCBs. -/

namespace Sys2Proof.Proofs

open Sys2Proof Sys2Proof.Machine

/-! ### The operations that move no SCB -/

@[simp] theorem raiseCause_pipeline (c : Cause) (s : State) : (raiseCause c s).pipeline = s.pipeline := by
  simp [State.pipeline]
@[simp] theorem updateLine_pipeline (s : State) : (updateLine s).pipeline = s.pipeline := by
  simp [State.pipeline]
@[simp] theorem seqHalt_pipeline (s : State) : (seqHalt s).pipeline = s.pipeline := by
  simp [State.pipeline]
@[simp] theorem seqFault_pipeline (f : SeqError) (s : State) : (seqFault f s).pipeline = s.pipeline := by
  simp [State.pipeline]
@[simp] theorem phaseRequest_pipeline (p : Phase) (s : State) : (phaseRequest p s).pipeline = s.pipeline := by
  simp [State.pipeline]
@[simp] theorem singleStepPause_pipeline (s : State) : (singleStepPause s).pipeline = s.pipeline := by
  simp [State.pipeline]
@[simp] theorem writeSeqAddr_pipeline (f : SeqAddr → SeqAddr) (s : State) :
    (writeSeqAddr f s).pipeline = s.pipeline := by
  simp [State.pipeline]
@[simp] theorem seqReset_pipeline (s : State) : (seqReset s).pipeline = s.pipeline := by
  simp [State.pipeline]
@[simp] theorem startLoad_pipeline (edge : Bool) (s : State) : (startLoad edge s).pipeline = s.pipeline := by
  unfold startLoad; split <;> rfl

/-! ### The engine -/

/-- The progress action takes the head of the input FIFO in flight, or the SCB in flight to the end of the output FIFO:
either way it keeps its place in the sequence (42_queue_ops.md R267 to R269). -/
theorem pipeline_progress {s t : State} (hp : progress s = .next t) : t.pipeline = s.pipeline := by
  rcases progress_cases hp with ⟨i, rest, hidle, hq, rfl⟩ | ⟨i, hactive, _, _, rfl⟩ | ⟨i, _, _, rfl⟩
  · rw [phaseRequest_pipeline]
    simp [State.pipeline, hidle, hq]
  · rw [raiseCause_pipeline, phaseRequest_pipeline]
    simp [State.pipeline, hactive]
  · exact phaseRequest_pipeline _ s

theorem pipeline_retire {s t : State} (hr : retire s = .next t) : t.pipeline = s.pipeline := by
  obtain ⟨u, hu, rfl⟩ := retire_cases hr
  rw [singleStepPause_pipeline, pipeline_progress hu]

theorem pipeline_engineStep {s t : State} (hc : s.canStep = true) (hs : step s = .next t) :
    t.pipeline = s.pipeline := by
  rcases engineStep_cases hc hs with ⟨pc, stack, sp, hr⟩ | ⟨f, _, rfl⟩ | ⟨pc, rfl⟩
  · exact pipeline_retire (s := { s with pc := pc, stack := stack, sp := sp }) hr
  · exact seqFault_pipeline f s
  · exact seqHalt_pipeline _

/-! ### The host -/

/-- A QINFIFO write puts its SCB last, a full FIFO refuses it (42_queue_ops.md R261). -/
theorem enqueueInput_pipeline (v : Byte) (s : State) : (enqueueInput v s).pipeline =
    if s.qin.length = s.cfg.qdepth then s.pipeline else s.pipeline ++ [v] := by
  split
  · next hfull => rw [enqueueInput_of_full hfull]; rfl
  · next hroom => rw [enqueueInput_of_room hroom]; simp [State.pipeline]

/-- A QOUTFIFO read takes the first of the sequence, if a completed SCB is there (42_queue_ops.md R264). -/
theorem dequeueOutput_pipeline (s : State) : (dequeueOutput s).2.pipeline =
    if s.qout = [] then s.pipeline else s.pipeline.tail := by
  cases hq : s.qout with
  | nil => rw [dequeueOutput_of_nil hq, if_pos rfl]; rfl
  | cons v rest =>
    rw [dequeueOutput_of_cons hq, if_neg (List.cons_ne_nil v rest)]
    simp [State.pipeline, hq]

/-- The submitting inputs are the accesses that decode to a QINFIFO write. -/
theorem submits_eq_some {i : Input} {v : Byte} :
    i.submits = some v ↔ ∃ a, i = .access a ∧ decodeAccess a = .instr (.qinfifoW v) := by
  cases i with
  | access a =>
    simp only [Input.submits, Input.access.injEq, exists_eq_left']
    split
    · next w hdec => simp [hdec]
    · next hother => simpa using hother v
  | reset | extScsiInt | extParityErr => simp [Input.submits]

/-- The draining inputs are the accesses that decode to a QOUTFIFO read. -/
theorem drains_eq_true {i : Input} :
    i.drains = true ↔ ∃ a, i = .access a ∧ decodeAccess a = .instr .qoutfifoR := by
  cases i with
  | access a =>
    simp only [Input.drains, Input.access.injEq, exists_eq_left']
    split
    · next hdec => simp [hdec]
    · next hother => simpa using hother
  | reset | extScsiInt | extParityErr => simp [Input.drains]

theorem pipeline_of_submits {i : Input} {s t : State} {v : Byte} (ha : acceptInput i s = .next t)
    (hsub : i.submits = some v) :
    t.pipeline = if s.qin.length = s.cfg.qdepth then s.pipeline else s.pipeline ++ [v] := by
  obtain ⟨a, rfl, hdec⟩ := submits_eq_some.1 hsub
  have hexec : exec (.qinfifoW v) s = .next t := (acceptAccess_of_instr hdec s).symm.trans ha
  rw [exec_qinfifoW] at hexec
  rw [← Host.Outcome.next.inj hexec, enqueueInput_pipeline]

theorem pipeline_of_drains {i : Input} {s t : State} (ha : acceptInput i s = .next t) (hdrain : i.drains = true) :
    t.pipeline = if s.qout = [] then s.pipeline else s.pipeline.tail := by
  obtain ⟨a, rfl, hdec⟩ := drains_eq_true.1 hdrain
  have hexec : exec .qoutfifoR s = .next t := (acceptAccess_of_instr hdec s).symm.trans ha
  rw [exec_qoutfifoR] at hexec
  rw [← Host.Outcome.next.inj hexec]
  exact dequeueOutput_pipeline s

/-- Of the host operations only the two queue ports and a CHIPRST write move an SCB. -/
theorem pipeline_hostEffect {i : Instr} {s t : State} (he : HostEffect s i t) :
    t.pipeline = s.pipeline ∨ (∃ v, i = .qinfifoW v) ∨ i = .qoutfifoR ∨ ∃ v, i = .hcntrlW v ∧ v[0] = true := by
  cases he with
  | enqueues v => exact .inr (.inl ⟨v, rfl⟩)
  | dequeues => exact .inr (.inr (.inl rfl))
  | resets v hv => exact .inr (.inr (.inr ⟨v, rfl, hv⟩))
  | writesPhase v =>
    rcases phaseWrite_cases v s with hsame | ⟨p, hrequest⟩
    · exact .inl (by rw [hsame])
    · exact .inl (by rw [hrequest, phaseRequest_pipeline])
  | setsSeqctl v =>
    refine .inl ((startLoad_pipeline _ _).trans ?_)
    split
    · exact seqReset_pipeline s
    · rfl
  | setsSeqAddr _ f => exact .inl (writeSeqAddr_pipeline f s)
  | setsHcntrl v _ => exact .inl (updateLine_pipeline _)
  | setsSimode0 v => exact .inl (updateLine_pipeline _)
  | clearsCauses v => exact .inl (updateLine_pipeline _)
  | _ => exact .inl rfl

/-- An input that neither submits, drains nor resets moves no SCB. -/
theorem pipeline_of_other {i : Input} {s t : State} (ha : acceptInput i s = .next t) (hreset : i.resets = false)
    (hsub : i.submits = none) (hdrain : i.drains = false) : t.pipeline = s.pipeline := by
  rcases acceptInput_cases ha with ⟨a, j, rfl, hdec, hj, he⟩ | ⟨a, d, _, _, rfl⟩ | ⟨rfl, _⟩ | ⟨_, rfl⟩ | ⟨_, rfl⟩
  · rcases pipeline_hostEffect (hostEffect_of_exec hj he) with hsame | ⟨v, rfl⟩ | rfl | ⟨v, rfl, hv⟩
    · exact hsame
    · rw [submits_eq_some.2 ⟨a, rfl, hdec⟩] at hsub; cases hsub
    · rw [drains_eq_true.2 ⟨a, rfl, hdec⟩] at hdrain; cases hdrain
    · rw [resets_of_hcntrlW hdec, hv] at hreset; cases hreset
  · rfl
  · cases hreset
  · exact raiseCause_pipeline _ s
  · exact raiseCause_pipeline _ s

/-- All that an accepted input other than a reset does to the sequence. -/
theorem pipeline_acceptInput {i : Input} {s t : State} (ha : acceptInput i s = .next t) (hreset : i.resets = false) :
    (∀ v, i.submits = some v →
      t.pipeline = if s.qin.length = s.cfg.qdepth then s.pipeline else s.pipeline ++ [v]) ∧
    (i.drains = true → t.pipeline = if s.qout = [] then s.pipeline else s.pipeline.tail) ∧
    (i.submits = none → i.drains = false → t.pipeline = s.pipeline) :=
  ⟨fun _ => pipeline_of_submits ha, pipeline_of_drains ha, pipeline_of_other ha hreset⟩

theorem step_of_input {s : State} {i : Input} {rest : List Input} (hc : s.canStep = false)
    (hin : s.inputs = i :: rest) : step s = acceptInput i { s with inputs := rest } := by
  simp [step, transition, hc, hin]

theorem step_of_idle {s : State} (hc : s.canStep = false) (hin : s.inputs = []) : step s = .next s := by
  simp [step, transition, hc, hin]

/-- Settles O54: an engine step moves SCBs along the sequence only (`pipeline_engineStep`), an accepted input does what
`pipeline_acceptInput` says, an idle step nothing. -/
theorem scbsStayInFifoOrder : Obligations.ScbsStayInFifoOrder := by
  intro s t hs
  refine ⟨fun hc => pipeline_engineStep hc hs, fun hc i rest hin hreset => ?input, fun hc hin => ?idle⟩
  case input =>
    rw [step_of_input hc hin] at hs
    exact pipeline_acceptInput (s := { s with inputs := rest }) hs hreset
  case idle =>
    rw [step_of_idle hc hin] at hs
    rw [Host.Outcome.next.inj hs]

end Sys2Proof.Proofs
end

section
/-! The ring buffer (42_queue_ops.md R274) against the sequence of entries it stands for. -/

namespace Sys2Proof.Proofs

open Sys2Proof Sys2Proof.Machine

/-- What the ring keeps, as propositions. -/
theorem ring_wf_iff {depth : Nat} {r : Ring} :
    r.wf depth = true ↔ r.buf.length = depth ∧ r.head < depth ∧ r.count ≤ depth := by
  simp [Ring.wf, and_assoc]

/-- Two positions less than one turn apart are two buffer indices. -/
theorem ringIndex_inj {depth head j k : Nat} (hj : j < depth) (hk : k < depth)
    (h : (head + j) % depth = (head + k) % depth) : j = k :=
  (Nat.ModEq.add_left_cancel' head h).eq_of_lt_of_lt hj hk

/-- A push leaves the live entries as they are. -/
theorem entry_push_of_lt {depth : Nat} {r : Ring} (hroom : r.count < depth) (v : Byte) {k : Nat} (hk : k < r.count) :
    (r.push depth v).entry depth k = r.entry depth k := by
  have hne : (r.head + r.count) % depth ≠ (r.head + k) % depth :=
    fun hsame => hk.ne' (ringIndex_inj hroom (hk.trans hroom) hsame)
  simp [Ring.entry, Ring.push, List.getD_eq_getElem?_getD, List.getElem?_set_ne hne]

/-- The entry a push adds, behind the live ones. -/
theorem entry_push_count {depth : Nat} {r : Ring} (hlen : r.buf.length = depth) (hpos : 0 < depth) (v : Byte) :
    (r.push depth v).entry depth r.count = v := by
  have hindex : (r.head + r.count) % depth < r.buf.length := (Nat.mod_lt _ hpos).trans_eq hlen.symm
  simp [Ring.entry, Ring.push, List.getD_eq_getElem?_getD, List.getElem?_set_self hindex]

theorem contents_push {depth : Nat} {r : Ring} (hlen : r.buf.length = depth) (hroom : r.count < depth) (v : Byte) :
    (r.push depth v).contents depth = r.contents depth ++ [v] := by
  have hlive : (List.range r.count).map ((r.push depth v).entry depth) = r.contents depth :=
    List.map_congr_left fun k hk => entry_push_of_lt hroom v (List.mem_range.1 hk)
  calc (r.push depth v).contents depth
      = (List.range (r.count + 1)).map ((r.push depth v).entry depth) := rfl
    _ = (List.range r.count).map ((r.push depth v).entry depth) ++ [(r.push depth v).entry depth r.count] := by
        rw [List.range_succ, List.map_append, List.map_singleton]
    _ = r.contents depth ++ [v] := by rw [hlive, entry_push_count hlen (by omega)]

/-- After a pop the entries stand one place nearer to the head. -/
theorem entry_pop (depth : Nat) (r : Ring) (k : Nat) :
    (r.pop depth).2.entry depth k = r.entry depth (k + 1) := by
  simp [Ring.entry, Ring.pop, Nat.add_assoc, Nat.add_comm 1 k]

theorem contents_pop {depth : Nat} {r : Ring} (hne : r.count ≠ 0) :
    r.contents depth = (r.pop depth).1 :: (r.pop depth).2.contents depth := by
  obtain ⟨n, hn⟩ := Nat.exists_eq_succ_of_ne_zero hne
  have hcount : (r.pop depth).2.count = n := by simp [Ring.pop, hn]
  rw [Ring.contents, hn, List.range_succ_eq_map, List.map_cons, List.map_map, Ring.contents, hcount]
  congr 1
  exact List.map_congr_left fun k _ => (entry_pop depth r k).symm

/-- Settles O60: a push fills the index behind the live entries, a pop moves the head by one. -/
theorem ringImplementsFifo : Obligations.RingImplementsFifo := by
  refine ⟨fun depth hpos => ⟨?_, rfl⟩, fun depth r v hwf hfull => ?_, fun depth r hwf hempty => ?_⟩
  · exact ring_wf_iff.2 ⟨List.length_replicate, hpos, Nat.zero_le _⟩
  · obtain ⟨hlen, hhead, hcount⟩ := ring_wf_iff.1 hwf
    have hne : r.count ≠ depth := by simpa [Ring.isFull] using hfull
    have hroom : r.count < depth := lt_of_le_of_ne hcount hne
    exact ⟨ring_wf_iff.2 ⟨List.length_set.trans hlen, hhead, hroom⟩, contents_push hlen hroom v⟩
  · obtain ⟨hlen, hhead, hcount⟩ := ring_wf_iff.1 hwf
    have hne : r.count ≠ 0 := by simpa [Ring.isEmpty] using hempty
    exact ⟨ring_wf_iff.2 ⟨hlen, Nat.mod_lt _ (by omega), (Nat.sub_le _ _).trans hcount⟩, contents_pop hne⟩

end Sys2Proof.Proofs
end

section
/-! The tables of the phase tracker (43_phase_ops.md R291, R293, R295): the legal transitions, the phase a control-signal
byte requests, and the engine's path. -/

namespace Sys2Proof.Proofs

open Sys2Proof Sys2Proof.Machine

/-! ### The legal transitions -/

/-- Settles O30: the list of 43_phase_ops.md R291, source by source. -/
theorem legalTransitionsAreFourteen : Obligations.LegalTransitionsAreFourteen := by
  intro p q
  cases p <;> simp [legal, legalPairs]

/-- A legal transition changes the phase (43_phase_ops.md R291). -/
theorem ne_of_legal {p q : Phase} (h : legal p q = true) : q ≠ p := by
  rintro rfl
  cases q <;> cases h

/-- Arbitration is entered from BusFree only (43_phase_ops.md R291). -/
theorem legal_arbitration_iff (p : Phase) : legal p .arbitration = true ↔ p = .busFree := by
  simp [legalTransitionsAreFourteen p .arbitration]

/-! ### The phase a control-signal byte requests -/

/-- The three top bits of a byte as a number, bit by bit. -/
theorem topBits_eq_iff (v : Byte) (code : BitVec 3) :
    v.extractLsb' 5 3 = code ↔ v[5] = code[0] ∧ v[6] = code[1] ∧ v[7] = code[2] := by
  refine ⟨?bits, fun ⟨h5, h6, h7⟩ => ?eq⟩
  case bits =>
    rintro rfl
    simp
  case eq =>
    ext k hk
    interval_cases k <;> simp [h5, h6, h7]

/-- The transfer phase of the three top bits of a control-signal byte, none for the two reserved combinations
(43_phase_ops.md R293). -/
def transferPhase (code : BitVec 3) : Option Phase :=
  match code with
  | 0b000#3 => some .dataOut
  | 0b010#3 => some .dataIn
  | 0b100#3 => some .command
  | 0b101#3 => some .msgOut
  | 0b110#3 => some .status
  | 0b111#3 => some .msgIn
  | _ => none

/-- A byte that is neither of Selection, of BusFree nor of Arbitration requests by its three top bits
(43_phase_ops.md R293). -/
theorem decodePhase_of_topBits {v : Byte} (h3 : v[3] = false) (h2 : v[2] = true) (h1 : v[1] = true) {code : BitVec 3}
    (hcode : v.extractLsb' 5 3 = code) : decodePhase v = transferPhase code := by
  obtain ⟨h5, h6, h7⟩ := (topBits_eq_iff v code).1 hcode
  clear hcode
  simp only [decodePhase, h1, h2, h3, h5, h6, h7]
  decide +revert

/-- Settles O29: the clauses follow the tests of `DecodePhase` in order, the last the table of `transferPhase`. -/
theorem decodePhaseByBits : Obligations.DecodePhaseByBits := by
  refine ⟨fun v => ⟨fun h3 => ?_, fun h3 h2 => ?_, fun h3 h2 h1 => ?_, fun h3 h2 h1 => ?_⟩, fun p => ?_⟩
  · simp [decodePhase, h3]
  · simp [decodePhase, h3, h2]
  · simp [decodePhase, h3, h2, h1]
  · have htable {code : BitVec 3} := decodePhase_of_topBits h3 h2 h1 (code := code)
    exact ⟨htable, htable, htable, htable, htable, htable, fun h => h.elim htable htable⟩
  · cases p <;> rfl

/-! ### The engine's path -/

/-- A word is zero iff its four bytes are (20_memory.md R106 a). -/
theorem wordOfBytes_eq_zero (b0 b1 b2 b3 : Byte) :
    wordOfBytes b0 b1 b2 b3 = 0#32 ↔ b0 = 0#8 ∧ b1 = 0#8 ∧ b2 = 0#8 ∧ b3 = 0#8 := by
  simp only [wordOfBytes, ← BitVec.toNat_inj, toNat_append_add, BitVec.toNat_ofNat]
  omega

/-- Where a sent command goes, by the bytes of its slot (43_phase_ops.md R295). -/
theorem afterCommand_eq_ite (m : Memory) (i : Byte) :
    afterCommand m i =
      if scbByte m i 8 = 0#8 ∧ scbByte m i 9 = 0#8 ∧ scbByte m i 10 = 0#8 ∧ scbByte m i 11 = 0#8 then .status
      else if (scbByte m i 0)[0] then .dataIn else .dataOut := by
  have hcount := wordOfBytes_eq_zero (scbByte m i 8) (scbByte m i 9) (scbByte m i 10) (scbByte m i 11)
  rw [afterCommand, scbDataCount]
  split
  · next hdata => rw [if_neg (hcount.not.1 hdata), dataPhase, scbDirIn]
  · next hnone => rw [if_pos (hcount.1 (not_not.1 hnone))]

/-- Every phase of the engine's path is a legal next phase (43_phase_ops.md R295). -/
theorem legal_nextPhase (m : Memory) (i : Byte) (p : Phase) : legal p (nextPhase m i p) = true := by
  cases p with
  | command | msgOut => rcases afterCommand_cases m i with h | h | h <;> rw [nextPhase, h] <;> rfl
  | busFree | arbitration | selection | dataIn | dataOut | status | msgIn => rfl

/-- Settles O21: all but the two phases before the data phase are entries of the path's table. -/
theorem enginePathOfPhases : Obligations.EnginePathOfPhases := by
  intro m i
  refine ⟨rfl, rfl, rfl, ?_, rfl, rfl, rfl, rfl, legal_nextPhase m i⟩
  rintro p (rfl | rfl)
  · exact afterCommand_eq_ite m i
  · exact afterCommand_eq_ite m i

end Sys2Proof.Proofs
end

section
/-! Phase requests (43_phase_ops.md R292, R294): the three things one can do, and the SCSISIGO write that makes one. -/

namespace Sys2Proof.Proofs

open Sys2Proof Sys2Proof.Machine

theorem phaseRequest_same {p : Phase} {s : State} (h : p = s.phase) : phaseRequest p s = s := if_pos h

theorem phaseRequest_of_legal {p : Phase} {s : State} (h : legal s.phase p = true) :
    phaseRequest p s = movePhase p s := by
  rw [phaseRequest, if_neg (ne_of_legal h), if_pos h]

/-- BusFree forced: PHASEMIS, and the two events of a change of phase unless the phase was BusFree (43_phase_ops.md
R292). -/
theorem forceBusFree_eq (s : State) :
    forceBusFree s = { s with
      phase := .busFree
      sstat0 := { s.sstat0 with
        phasemis := true
        phasechg := s.sstat0.phasechg || s.phase != .busFree
        busfree := s.sstat0.busfree || s.phase != .busFree } } := by
  unfold forceBusFree
  split
  · next hfree => simp [← hfree]
  · next hbusy => simp [hbusy]

/-- An illegal transition attempt: BusFree forced, and the fault ILLPHASE (43_phase_ops.md R292, 60_exceptions.md
R312). -/
theorem phaseRequest_of_illegal {p : Phase} {s : State} (hne : p ≠ s.phase) (h : legal s.phase p = false) :
    phaseRequest p s = updateLine { s with
      phase := .busFree
      sstat0 := { s.sstat0 with
        phasemis := true
        phasechg := s.sstat0.phasechg || s.phase != .busFree
        busfree := s.sstat0.busfree || s.phase != .busFree }
      error := { s.error with illphase := true }
      halted := true
      pending := { s.pending with brkadrint := true } } := by
  rw [phaseRequest, if_neg hne, if_neg (by simp [h]), forceBusFree_eq]
  rfl

theorem exec_scsisigoW (v : Byte) (s : State) : exec (.scsisigoW v) s = .next (phaseWrite v s) := rfl

theorem phaseWrite_of_none {v : Byte} (h : decodePhase v = none) (s : State) : phaseWrite v s = s := by
  rw [phaseWrite, h]

theorem phaseWrite_of_some {v : Byte} {p : Phase} (h : decodePhase v = some p) (s : State) :
    phaseWrite v s = phaseRequest p s := by
  rw [phaseWrite, h]

/-- Settles O31: the byte requests no phase, the current one, a legal one or an illegal one. -/
theorem scsisigoRequestsPhase : Obligations.ScsisigoRequestsPhase := by
  intro s v
  refine ⟨rfl, fun hidle => ?same, fun p hp _ hlegal => ?moves, fun p hp hne hillegal => ?faults⟩
  case same =>
    rcases hidle with hnone | hsame
    · rw [exec_scsisigoW, phaseWrite_of_none hnone]
    · rw [exec_scsisigoW, phaseWrite_of_some hsame, phaseRequest_same rfl]
  case moves =>
    rw [exec_scsisigoW, phaseWrite_of_some hp, phaseRequest_of_legal hlegal]
    rfl
  case faults =>
    rw [exec_scsisigoW, phaseWrite_of_some hp, phaseRequest_of_illegal hne hillegal]

end Sys2Proof.Proofs
end

section
/-! The retirement (40_sequencer.md R174, R179; 43_phase_ops.md R296, R297) case by case: the dequeue, the phase advance and
the completion, each followed by the single-step pause. -/

namespace Sys2Proof.Proofs

open Sys2Proof Sys2Proof.Machine

/-! ### The pause -/

/-- A halting step does not set PAUSE (40_sequencer.md R174). -/
theorem singleStepPause_of_halted {s : State} (h : s.halted = true) : singleStepPause s = s := if_pos h

/-- An engine that did not halt pauses iff STEP is set (40_sequencer.md R174). -/
theorem singleStepPause_of_running {s : State} (h : s.halted = false) :
    singleStepPause s = { s with regs := { s.regs with
      hcntrl := if s.regs.seqctl[2] then s.regs.hcntrl ||| 0x04#8 else s.regs.hcntrl } } := by
  rw [singleStepPause, if_neg (by simp [h]), State.stepBit]
  split <;> rfl

/-- A legal move of an engine that did not halt, and the pause that follows it (43_phase_ops.md R292, 40_sequencer.md
R174). -/
theorem singleStepPause_movePhase {s : State} (h : s.halted = false) (p : Phase) :
    singleStepPause (movePhase p s) = { s with
      phase := p
      sstat0 := { s.sstat0 with phasechg := true, busfree := s.sstat0.busfree || p == .busFree }
      regs := { s.regs with
        hcntrl := if s.regs.seqctl[2] then s.regs.hcntrl ||| 0x04#8 else s.regs.hcntrl } } :=
  singleStepPause_of_running (s := movePhase p s) h

/-- The pause does not touch what the line depends on (60_exceptions.md R320). -/
@[simp] theorem singleStepPause_lineValue (s : State) : (singleStepPause s).lineValue = s.lineValue := by
  have hinten : (singleStepPause s).inten = s.inten := by
    rw [State.inten, State.inten, singleStepPause_regs]
    split <;> simp
  have hmask : (singleStepPause s).regs.simode0 = s.regs.simode0 := by
    rw [singleStepPause_regs]
    split <;> rfl
  simp only [State.lineValue, hinten, hmask, singleStepPause_pending]

/-! ### The three retirements -/

/-- The oldest queued SCB taken in flight, `rest` left behind it (42_queue_ops.md R267). -/
def dequeuedScb (i : Byte) (rest : List Byte) (s : State) : State := { s with qin := rest, active := some i }

/-- With nothing in flight the oldest queued SCB is taken in flight, and Arbitration requested (43_phase_ops.md R296). -/
theorem retire_of_idle {s : State} {i : Byte} {rest : List Byte} (ha : s.active = none) (hq : s.qin = i :: rest) :
    retire s = .next (singleStepPause (phaseRequest .arbitration (dequeuedScb i rest s))) := by
  refine retire_of_progress ?_
  rw [progress, ha, hq, dequeuedScb]

/-- With an SCB in flight before MsgIn the next phase of its path is entered (43_phase_ops.md R295, R296). -/
theorem retire_of_active {s : State} {i : Byte} (ha : s.active = some i) (hp : s.phase ≠ .msgIn) :
    retire s = .next (singleStepPause (movePhase (nextPhase s.scb i s.phase) s)) := by
  refine retire_of_progress ?_
  rw [progress, ha, ← phaseRequest_of_legal (legal_nextPhase s.scb i s.phase)]
  exact if_neg hp

/-- The SCB in flight completed: its status written, its index pushed, nothing in flight (43_phase_ops.md R297). -/
def completedScb (i : Byte) (s : State) : State :=
  { s with scb := Memory.write s.scb (scbAddr i 3) goodStatus, qout := s.qout ++ [i], active := none }

/-- With an SCB in flight in MsgIn and room in the output FIFO it is completed, BusFree entered and CMDCMPLT raised
(43_phase_ops.md R297). -/
theorem retire_of_msgIn {s : State} {i : Byte} (ha : s.active = some i) (hp : s.phase = .msgIn)
    (hroom : s.qout.length ≠ s.cfg.qdepth) :
    retire s = .next (singleStepPause (raiseCause .cmdcmplt (movePhase .busFree (completedScb i s)))) := by
  have hlegal : legal (completedScb i s).phase .busFree = true := by
    rw [completedScb, hp]
    rfl
  refine retire_of_progress ?_
  rw [progress, ha, ← phaseRequest_of_legal hlegal]
  exact (if_pos hp).trans (complete_eq_next (by simpa [State.qoutFull] using hroom))

/-- Settles O20: Arbitration is legal from BusFree and no request in Arbitration; from any other phase it is illegal, and
the fault that follows keeps the engine from pausing. -/
theorem retireDequeuesOldestScb : Obligations.RetireDequeuesOldestScb := by
  intro s i rest ha hq
  rw [retire_of_idle ha hq]
  refine ⟨fun hrun hphase => ?enters, fun hfree harb => ?faults⟩
  case enters =>
    have hrun' : (dequeuedScb i rest s).halted = false := hrun
    rcases hphase with hfree | harb
    · have hlegal : legal (dequeuedScb i rest s).phase .arbitration = true := (legal_arbitration_iff s.phase).2 hfree
      rw [phaseRequest_of_legal hlegal, singleStepPause_movePhase hrun']
      simp [dequeuedScb, hfree]
    · have hsame : .arbitration = (dequeuedScb i rest s).phase := harb.symm
      have hbusy : (Phase.arbitration == .busFree) = false := rfl
      rw [phaseRequest_same hsame, singleStepPause_of_running hrun']
      simp [dequeuedScb, harb, hbusy]
  case faults =>
    have hne : .arbitration ≠ (dequeuedScb i rest s).phase := Ne.symm harb
    have hillegal : legal (dequeuedScb i rest s).phase .arbitration = false :=
      Bool.eq_false_of_not_eq_true fun h => hfree ((legal_arbitration_iff s.phase).1 h)
    rw [phaseRequest_of_illegal hne hillegal, singleStepPause_of_halted (by simp)]
    simp [dequeuedScb, bne_iff_ne.2 hfree]

/-- The engine's path leads to BusFree from MsgIn only (43_phase_ops.md R295). -/
theorem nextPhase_ne_busFree (m : Memory) (i : Byte) {p : Phase} (hp : p ≠ .msgIn) : nextPhase m i p ≠ .busFree := by
  intro h
  have hlegal := legal_nextPhase m i p
  rw [h] at hlegal
  exact hp (by simpa using (legalTransitionsAreFourteen p .busFree).1 hlegal)

/-- Settles O22: the engine's path is legal, so no fault keeps the engine from pausing, and BusFree is not on it before
MsgIn, so BUSFREE is not set. -/
theorem retireAdvancesPhase : Obligations.RetireAdvancesPhase := by
  intro s i hrun ha hp
  rw [retire_of_active ha hp, singleStepPause_movePhase hrun]
  simp [nextPhase_ne_busFree s.scb i hp]

/-- Settles O23: the completed SCB, the legal move to BusFree, the raised cause and the pause each set the fields of
43_phase_ops.md R297 that are theirs, and `engineKeeps_retire` says the rest. -/
theorem retireCompletesScb : Obligations.RetireCompletesScb := by
  intro s i hrun ha hp hroom
  have hr := retire_of_msgIn ha hp hroom
  refine ⟨_, hr, fun a => ?scb, ?qout, ?qin, ?active, ?phase, ?sstat0, ?pending, ?line, ?edges, ?halted, ?error,
    ?pc, ?stack, ?sp, ?hcntrl, engineKeeps_retire hr⟩
  case scb => simpa [completedScb] using Memory.read_write s.scb (scbAddr i 3) a goodStatus
  case line => simp [raiseCause]
  case edges => simp [raiseCause, updateLine_edges, completedScb]
  case hcntrl =>
    rw [singleStepPause_of_running (by simpa [completedScb] using hrun)]
    simp [completedScb]
  case halted => simpa [completedScb] using hrun
  case pending => simp [completedScb, PendingCauses.set]
  case phase => simp
  case qout | qin | active | sstat0 | error | pc | stack | sp => simp [completedScb]

end Sys2Proof.Proofs
end

section
/-! What changes the phase (43_phase_ops.md R292, R299), operation by operation and then for every step. -/

namespace Sys2Proof.Proofs

open Sys2Proof Sys2Proof.Machine

/-- Between `s` and `t` the phase stays, makes a legal transition, or is forced to BusFree with the fault ILLPHASE. -/
def PhaseTracked (s t : State) : Prop :=
  t.phase = s.phase ∨ legal s.phase t.phase = true ∨
    (t.phase = .busFree ∧ t.error.illphase = true ∧ t.halted = true)

/-- A phase request is the one operation of the tracker that changes the phase (43_phase_ops.md R292). -/
theorem phaseTracked_phaseRequest {s u : State} (hu : u.phase = s.phase) (p : Phase) :
    PhaseTracked s (phaseRequest p u) := by
  rcases phaseRequest_cases p u with ⟨_, hsame⟩ | ⟨_, hlegal, hmove⟩ | ⟨_, _, hfault⟩
  · rw [hsame]; exact .inl hu
  · rw [hmove]; exact .inr (.inl (hu ▸ hlegal))
  · rw [hfault]; exact .inr (.inr (by simp [ErrorRecord.mark]))

/-- What follows a phase request in a step leaves the phase, the fault record and the Halted flag alone. -/
theorem phaseTracked_of_frame {s t u : State} (h : PhaseTracked s t) (hphase : u.phase = t.phase)
    (herror : u.error = t.error) (hhalted : u.halted = t.halted) : PhaseTracked s u := by
  rwa [PhaseTracked, hphase, herror, hhalted]

theorem phaseTracked_progress {s t : State} (hp : progress s = .next t) : PhaseTracked s t := by
  rcases progress_cases hp with ⟨i, rest, _, _, rfl⟩ | ⟨i, _, _, _, rfl⟩ | ⟨i, _, _, rfl⟩
  · refine phaseTracked_phaseRequest ?_ _
    rfl
  · refine phaseTracked_of_frame (phaseTracked_phaseRequest ?_ _) (raiseCause_phase ..) (raiseCause_error ..)
      (raiseCause_halted ..)
    rfl
  · exact phaseTracked_phaseRequest rfl _

theorem phaseTracked_retire {s t : State} (hr : retire s = .next t) : PhaseTracked s t := by
  obtain ⟨u, hu, rfl⟩ := retire_cases hr
  exact phaseTracked_of_frame (phaseTracked_progress hu) (singleStepPause_phase u) (singleStepPause_error u)
    (singleStepPause_halted u)

theorem phaseTracked_engineStep {s t : State} (hc : s.canStep = true) (hs : step s = .next t) : PhaseTracked s t := by
  rcases engineStep_cases hc hs with ⟨pc, stack, sp, hr⟩ | ⟨f, _, rfl⟩ | ⟨pc, rfl⟩
  · exact phaseTracked_retire (s := { s with pc := pc, stack := stack, sp := sp }) hr
  · exact .inl (seqFault_phase f s)
  · exact .inl (seqHalt_phase _)

@[simp] theorem storeSeqctl_phase (v : Byte) (s : State) : (storeSeqctl v s).phase = s.phase := rfl
@[simp] theorem startLoad_phase (edge : Bool) (s : State) : (startLoad edge s).phase = s.phase := by
  unfold startLoad; split <;> rfl
@[simp] theorem dequeueOutput_phase (s : State) : (dequeueOutput s).2.phase = s.phase := by
  unfold dequeueOutput; split <;> rfl

/-- Of the host operations only SCSISIGO.W, by its request, and CHIPRST change the phase (43_phase_ops.md R299). -/
theorem phaseTracked_hostEffect {i : Instr} {s t : State} (he : HostEffect s i t) :
    PhaseTracked s t ∨ (t.phase = .busFree ∧ ∃ v, i = .hcntrlW v ∧ v[0] = true) := by
  cases he with
  | resets v hv => exact .inr ⟨rfl, v, rfl, hv⟩
  | writesPhase v =>
    rcases phaseWrite_cases v s with hsame | ⟨p, hrequest⟩
    · rw [hsame]; exact .inl (.inl rfl)
    · rw [hrequest]; exact .inl (phaseTracked_phaseRequest rfl p)
  | setsSeqctl v =>
    refine .inl (.inl ?_)
    rw [startLoad_phase, storeSeqctl_phase]
    split <;> simp
  | _ => exact .inl (.inl (by simp))

theorem phaseTracked_acceptInput {i : Input} {s t : State} (ha : acceptInput i s = .next t) :
    PhaseTracked s t ∨ (t.phase = .busFree ∧ i.resets = true) := by
  rcases acceptInput_cases ha with ⟨a, j, rfl, hd, hj, he⟩ | ⟨a, d, _, _, rfl⟩ | ⟨rfl, rfl⟩ | ⟨_, rfl⟩ | ⟨_, rfl⟩
  · rcases phaseTracked_hostEffect (hostEffect_of_exec hj he) with htracked | ⟨hfree, v, rfl, hv⟩
    · exact .inl htracked
    · exact .inr ⟨hfree, (resets_of_hcntrlW hd).trans hv⟩
  · exact .inl (.inl rfl)
  · exact .inr ⟨rfl, rfl⟩
  · exact .inl (.inl (raiseCause_phase _ s))
  · exact .inl (.inl (raiseCause_phase _ s))

/-- Every step follows the tracker or accepts a reset. -/
theorem phaseTracked_step {s t : State} (hs : step s = .next t) :
    PhaseTracked s t ∨
      (s.canStep = false ∧ t.phase = .busFree ∧ ∃ i rest, s.inputs = i :: rest ∧ i.resets = true) := by
  rcases step_cases hs with ⟨hc, _⟩ | ⟨hc, _⟩ | ⟨hc, _⟩ | ⟨_, _, rfl⟩ | ⟨hc, i, rest, hin, ha⟩
  · exact .inl (phaseTracked_engineStep hc hs)
  · exact .inl (phaseTracked_engineStep hc hs)
  · exact .inl (phaseTracked_engineStep hc hs)
  · exact .inl (.inl rfl)
  · rcases phaseTracked_acceptInput (s := { s with inputs := rest }) ha with htracked | ⟨hfree, hreset⟩
    · exact .inl htracked
    · exact .inr ⟨hc, hfree, i, rest, hin, hreset⟩

/-- Settles O58: `phaseTracked_step` without the case of an unchanged phase. -/
theorem phaseChangesOnlyAsAllowed : Obligations.PhaseChangesOnlyAsAllowed := by
  intro s t hs hchange
  rcases phaseTracked_step hs with (hsame | hlegal | hfault) | hreset
  · exact absurd hsame hchange
  · exact .inl hlegal
  · exact .inr (.inl hfault)
  · exact .inr (.inr hreset)

end Sys2Proof.Proofs
end

section
/-! Exceptions (60_exceptions.md): a breakpoint hit, a fault, the interrupt line and the two events, each as the full next
state. -/

namespace Sys2Proof.Proofs

open Sys2Proof Sys2Proof.Machine

/-! ### The interrupt line -/

/-- The value of the line in register bits (60_exceptions.md R320). -/
theorem lineValue_iff (s : State) :
    s.lineValue = true ↔
      s.regs.hcntrl[1] = true ∧
        ((s.pending.cmdcmplt = true ∧ s.regs.simode0[1] = true) ∨
         (s.pending.scsiint = true ∧ s.regs.simode0[2] = true) ∨
         (s.pending.brkadrint = true ∧ s.regs.simode0[3] = true) ∨
         (s.pending.parerrint = true ∧ s.regs.simode0[4] = true)) := by
  simp [State.lineValue, State.inten, Cause.bitOf, or_assoc]

/-- A line update sets the line and adds an edge iff the level changes (60_exceptions.md R321). -/
theorem updateLine_eq (s : State) :
    updateLine s = { s with
      irqLine := s.lineValue
      edges := if s.lineValue = s.irqLine then s.edges else s.lineValue :: s.edges } := by
  unfold updateLine
  split
  · next hsame => simp only [hsame]
  · rfl

/-- Settles O26: the line by its bits, and its update. -/
theorem lineFollowsEnabledCauses : Obligations.LineFollowsEnabledCauses :=
  fun s => ⟨lineValue_iff s, updateLine_eq s⟩

/-- Settles O14: each event is a step that accepts its input, which raises one cause. -/
theorem stepTakesExternalEvents : Obligations.StepTakesExternalEvents :=
  fun _ _ hc => ⟨fun hin => step_of_input hc hin, fun hin => step_of_input hc hin⟩

/-! ### Entry to Halted -/

/-- Marking a fault sets its own bit of the record and no other (60_exceptions.md R312). -/
theorem errorRecord_mark_eq (e : ErrorRecord) (f : SeqError) :
    e.mark f =
      { illphase := e.illphase || f == .illphase
        stkovf := e.stkovf || f == .stkovf
        illopcode := e.illopcode || f == .illopcode
        stkunf := e.stkunf || f == .stkunf } := by
  cases f <;> simp [ErrorRecord.mark]

/-- Settles O25: the fault record by `errorRecord_mark_eq`; the rest is the entry to Halted. -/
theorem seqFaultRecordsAndHalts : Obligations.SeqFaultRecordsAndHalts := by
  intro s f
  rw [seqFault, errorRecord_mark_eq]
  rfl

/-- Enabled and at `pc`, the breakpoint is hit (60_exceptions.md R314). -/
theorem breakpointHit_eq_true {s : State} (henabled : s.regs.brkaddr1[7] = false)
    (hpc : s.pc = BitVec.ofBool s.regs.brkaddr1[0] ++ s.regs.brkaddr0) : s.breakpointHit = true := by
  simp [State.breakpointHit, State.brkdis, State.brkAddr, joinAddr, henabled, ← hpc]

/-- Settles O11: the test of the breakpoint stands before the fetch. -/
theorem stepBreakpointHalts : Obligations.StepBreakpointHalts := by
  intro s hc henabled hpc
  rw [step_of_canStep hc, seqStep, if_pos (breakpointHit_eq_true henabled hpc)]
  rfl

end Sys2Proof.Proofs
end

section
/-! No step ends a run, and only a reset ends Halted (60_exceptions.md R310, R315, R317). -/

namespace Sys2Proof.Proofs

open Sys2Proof Sys2Proof.Machine

/-! ### Every state has a next state -/

theorem acceptInput_isNext (i : Input) (s : State) : ∃ t, acceptInput i s = .next t := by
  cases i with
  | access a => exact acceptAccess_isNext a s
  | reset | extScsiInt | extParityErr => exact ⟨_, rfl⟩

/-- No fault and no refusal ends a run (70_reset_and_hazards.md R373). -/
theorem step_isNext (s : State) : ∃ t, step s = .next t := by
  cases hc : s.canStep with
  | true => exact engineStep_isNext hc
  | false =>
    cases hin : s.inputs with
    | nil => exact ⟨s, step_of_idle hc hin⟩
    | cons i rest => rw [step_of_input hc hin]; exact acceptInput_isNext i _

/-- Settles O15: an engine step, an accepted input and an idle step each answer a next state. -/
theorem stepAlwaysAnswersNext : Obligations.StepAlwaysAnswersNext :=
  fun s => ⟨step_isNext s, step_of_idle⟩

/-! ### Halted is kept -/

/-- What every host operation but a reset keeps: Halted, once entered, with the faults recorded (60_exceptions.md R315),
the SCB in flight and the SCBs queued (R317). -/
structure HaltKept (s t : State) : Prop where
  halted : s.halted = true → t.halted = true
  active : t.active = s.active
  qin : t.qin = s.qin ∨ ∃ v, t.qin = s.qin ++ [v]
  illphase : s.error.illphase = true → t.error.illphase = true
  stkovf : t.error.stkovf = s.error.stkovf
  illopcode : t.error.illopcode = s.error.illopcode
  stkunf : t.error.stkunf = s.error.stkunf

theorem haltKept_of_frame {s t : State} (hhalted : t.halted = s.halted) (hactive : t.active = s.active)
    (hqin : t.qin = s.qin) (herror : t.error = s.error) : HaltKept s t where
  halted h := hhalted.trans h
  active := hactive
  qin := .inl hqin
  illphase h := by rw [herror, h]
  stkovf := by rw [herror]
  illopcode := by rw [herror]
  stkunf := by rw [herror]

theorem haltKept_updateLine {s u : State} (h : HaltKept s u) : HaltKept s (updateLine u) where
  halted := by simpa using h.halted
  active := by simpa using h.active
  qin := by simpa using h.qin
  illphase := by simpa using h.illphase
  stkovf := by simpa using h.stkovf
  illopcode := by simpa using h.illopcode
  stkunf := by simpa using h.stkunf

/-- A fault of a phase request records ILLPHASE, beside what is recorded. -/
theorem haltKept_phaseRequest (p : Phase) (s : State) : HaltKept s (phaseRequest p s) := by
  rcases phaseRequest_cases p s with ⟨_, hsame⟩ | ⟨_, _, hmove⟩ | ⟨hne, hillegal, _⟩
  · rw [hsame]; exact haltKept_of_frame rfl rfl rfl rfl
  · rw [hmove]; exact haltKept_of_frame rfl rfl rfl rfl
  · rw [phaseRequest_of_illegal hne hillegal]
    exact haltKept_updateLine
      { halted := fun _ => rfl, active := rfl, qin := .inl rfl, illphase := fun _ => rfl,
        stkovf := rfl, illopcode := rfl, stkunf := rfl }

theorem haltKept_phaseWrite (v : Byte) (s : State) : HaltKept s (phaseWrite v s) := by
  rcases phaseWrite_cases v s with hsame | ⟨p, hrequest⟩
  · rw [hsame]; exact haltKept_of_frame rfl rfl rfl rfl
  · rw [hrequest]; exact haltKept_phaseRequest p s

/-- The enqueue adds an SCB behind those queued, or refuses it (42_queue_ops.md R261). -/
theorem haltKept_enqueueInput (v : Byte) (s : State) : HaltKept s (enqueueInput v s) := by
  have hframe : HaltKept s s := haltKept_of_frame rfl rfl rfl rfl
  by_cases hfull : s.qin.length = s.cfg.qdepth
  · rw [enqueueInput_of_full hfull]; exact { hframe with }
  · rw [enqueueInput_of_room hfull]; exact { hframe with qin := .inr ⟨v, rfl⟩ }

theorem haltKept_dequeueOutput (s : State) : HaltKept s (dequeueOutput s).2 := by
  cases hq : s.qout with
  | nil => rw [dequeueOutput_of_nil hq]; exact haltKept_of_frame rfl rfl rfl rfl
  | cons v rest => rw [dequeueOutput_of_cons hq]; exact haltKept_of_frame rfl rfl rfl rfl

/-- Of the host operations only CHIPRST ends Halted (60_exceptions.md R315). -/
theorem haltKept_hostEffect {i : Instr} {s t : State} (he : HostEffect s i t) :
    HaltKept s t ∨ ∃ v, i = .hcntrlW v ∧ v[0] = true := by
  cases he with
  | resets v hv => exact .inr ⟨v, rfl, hv⟩
  | writesPhase v => exact .inl (haltKept_phaseWrite v s)
  | enqueues v => exact .inl (haltKept_enqueueInput v s)
  | dequeues => exact .inl { haltKept_dequeueOutput s with }
  | setsSeqctl v =>
    rw [startLoad_eq Iff.rfl, seqReset_if_eq]
    exact .inl (haltKept_of_frame rfl rfl rfl rfl)
  | _ => exact .inl (haltKept_of_frame (by simp) (by simp) (by simp) (by simp))

theorem haltKept_raiseCause (c : Cause) (s : State) : HaltKept s (raiseCause c s) :=
  haltKept_updateLine (haltKept_of_frame rfl rfl rfl rfl)

/-- Of the inputs only a reset, in either form, ends Halted (60_exceptions.md R315). -/
theorem haltKept_acceptInput {i : Input} {s t : State} (ha : acceptInput i s = .next t) (hreset : i.resets = false) :
    HaltKept s t := by
  rcases acceptInput_cases ha with ⟨a, j, rfl, hdec, hj, he⟩ | ⟨a, d, _, _, rfl⟩ | ⟨rfl, _⟩ | ⟨_, rfl⟩ | ⟨_, rfl⟩
  · rcases haltKept_hostEffect (hostEffect_of_exec hj he) with hkept | ⟨v, rfl, hv⟩
    · exact hkept
    · rw [resets_of_hcntrlW hdec, hv] at hreset; cases hreset
  · exact haltKept_of_frame rfl rfl rfl rfl
  · cases hreset
  · exact haltKept_raiseCause _ s
  · exact haltKept_raiseCause _ s

/-- A Halted engine takes no step of its own, so only an accepted input changes anything (60_exceptions.md R317). -/
theorem haltKept_step {s t : State} (hhalted : s.halted = true) (hs : step s = .next t)
    (hreset : ∀ i rest, s.inputs = i :: rest → i.resets = false) : HaltKept s t := by
  have hc : s.canStep = false := canStep_of_halted hhalted
  cases hin : s.inputs with
  | nil =>
    rw [step_of_idle hc hin] at hs
    obtain rfl := Host.Outcome.next.inj hs
    exact haltKept_of_frame rfl rfl rfl rfl
  | cons i rest =>
    rw [step_of_input hc hin] at hs
    exact { haltKept_acceptInput hs (hreset i rest hin) with }

/-- Settles O55: a step of a Halted engine that accepts no reset keeps what `HaltKept` lists. -/
theorem haltedIsLeftOnlyByReset : Obligations.HaltedIsLeftOnlyByReset := by
  intro s t hhalted hs hreset
  have h := haltKept_step hhalted hs hreset
  exact ⟨h.halted hhalted, h.active, h.qin, h.illphase, h.stkovf, h.illopcode, h.stkunf⟩

end Sys2Proof.Proofs
end

section
/-! The reset operation (70_reset_and_hazards.md R350, 41_register_ops.md R236): what the block shows after it, in either
form. -/

namespace Sys2Proof.Proofs

open Sys2Proof Sys2Proof.Machine

/-! ### The reset values, read as the block reads them -/

/-- Every word of an empty RAM reads zero (10_state.md R25). -/
theorem ramWord_nil (a : SeqAddr) : ramWord [] a = 0x00000000#32 := by
  simp only [ramWord, Memory.read_nil]
  decide

/-- Every byte of an empty SCB array reads zero (10_state.md R27). -/
theorem scbByte_nil (i : Byte) (k : BitVec 5) : scbByte [] i k = 0x00#8 := Memory.read_nil _

theorem reset_stack_getElem (k : Nat) (h : k < 4) : State.reset.stack[k] = 0x000#9 := by
  have hzero : State.reset.stack = Vector.replicate 4 0x000#9 := rfl
  rw [hzero, Vector.getElem_replicate]

theorem reset_pending_get (c : Cause) : State.reset.pending.get c = false := by cases c <;> rfl

theorem reset_regs_get (r : PlainReg) : State.reset.regs.get r = 0x00#8 := by cases r <;> rfl

/-! ### The engine after a reset -/

/-- After a reset no SCB is in flight or queued (70_reset_and_hazards.md R350). -/
theorem resetOp_hasWork (s : State) : (resetOp s).hasWork = false := rfl

/-- Neither Halted nor loading, and without work, the block is Idle (10_state.md R52). -/
theorem mode_eq_idle {s : State} (hhalted : s.halted = false) (hload : s.loadram = false)
    (hwork : s.hasWork = false) : s.mode = .idle := by
  have hactive : s.active.isSome = false := (Bool.or_eq_false_iff.1 hwork).1
  simp [State.mode, hhalted, hload, hwork, hactive]

theorem resetOp_mode (s : State) : (resetOp s).mode = .idle :=
  mode_eq_idle (resetOp_halted s) (by rw [State.loadram, resetOp_regs]; decide) (resetOp_hasWork s)

/-- Without work the engine cannot step (40_sequencer.md R171). -/
theorem resetOp_canStep (s : State) : (resetOp s).canStep = false := by
  simp [State.canStep, resetOp_hasWork]

/-! ### The step that takes the `reset` input -/

/-- The reset operation does not look at the inputs still to come. -/
theorem resetOp_setInputs (s : State) (rest : List Input) :
    resetOp { s with inputs := rest } = { resetOp s with inputs := rest } := rfl

/-- A `reset` input next in line is taken off the inputs and processed (20_memory.md R109, R114). -/
theorem step_of_reset {s : State} {rest : List Input} (hc : s.canStep = false) (hin : s.inputs = .reset :: rest) :
    step s = .next { resetOp s with inputs := rest } := by
  rw [step_of_input hc hin, acceptInput_reset, resetOp_setInputs]

/-- Settles O44: both forms of reset are `resetOp`, whose elements are those of `State.reset`. -/
theorem resetRestoresEveryElement : Obligations.ResetRestoresEveryElement := by
  intro s v hv
  refine ⟨resetOp s, exec_hcntrlW_of_chiprst hv s, acceptInput_reset s,
    resetOp_accum s, resetOp_sindex s, resetOp_dindex s, resetOp_pc s, resetOp_sp s,
    ?stack, resetOp_halted s, ?error, ?ram, resetOp_loadAddr s, resetOp_loadLane s,
    ?scb, resetOp_active s, resetOp_qin s, resetOp_qout s, resetOp_phase s,
    ?pending, ?sstat0, ?plain, ?simode0, ?seqctl, ?hcntrl, ?brkaddr1, resetOp_irqLine s,
    resetOp_edges s, resetOp_mode s, resetOp_canStep s, fun _ => step_of_reset⟩
  case stack => exact reset_stack_getElem
  case error => rw [resetOp_error]; rfl
  case ram => exact ramWord_nil
  case scb => exact scbByte_nil
  case pending => exact reset_pending_get
  case sstat0 => rw [resetOp_sstat0]; rfl
  case plain => exact reset_regs_get
  case simode0 | seqctl | hcntrl | brkaddr1 => rw [resetOp_regs]; rfl

end Sys2Proof.Proofs
end
